-- ==== Sys2Proof/Word.lean ====
section
/-! DEFINITION. The words the block computes with: the byte (R51), the 16-bit checksum word (R21) and the 32-bit serial number (R30). -/

namespace Sys2Proof

/-- The addressable unit everywhere (R51). -/
abbrev Byte := BitVec 8

/-- The checksum accumulator's width (R21, R119). -/
abbrev Word16 := BitVec 16

/-- The serial number's width (R30). -/
abbrev Word32 := BitVec 32

end Sys2Proof
end

