-- ==== Sys2Proof/Machine/Constants.lean ====
section
/-! DEFINITION. The hardwired constants (R8 to R11, R27) and the read-only baud table (R28). -/

namespace Sys2Proof.Machine

/-- `CRC_INIT` (R8, R27). -/
@[simp] abbrev crcInitValue : Word16 := 0xFFFF#16

/-- `CRC_POLY` (R8, R27). -/
@[simp] abbrev crcPoly : Word16 := 0xA001#16

/-- `ADDR_BROADCAST` (R9, R27). -/
@[simp] abbrev addrBroadcast : Byte := 0xFD#8

/-- `FUNC_EXT` (R9, R27). -/
@[simp] abbrev funcExt : Byte := 0x46#8

/-- `SUB_START` (R9, R27). -/
@[simp] abbrev subStart : Byte := 0x01#8

/-- `SUB_CONTINUE` (R9, R27). -/
@[simp] abbrev subContinue : Byte := 0x02#8

/-- `SUB_RESPONSE` (R9, R27). -/
@[simp] abbrev subResponse : Byte := 0x03#8

/-- `SUB_END` (R9, R27): the value of a scan-ended response; the sequencer never sends it (R183). -/
@[simp] abbrev subEnd : Byte := 0x04#8

/-- `IDLE_FILL` (R9, R27). -/
@[simp] abbrev idleFillByte : Byte := 0xFF#8

/-- `CMD_LEN` (R10). -/
def cmdLen : Nat := 5

/-- `MIN_FRAME_LEN` (R10). -/
def minFrameLen : Nat := 5

/-- `HDR_LEN` (R10). -/
def hdrLen : Nat := 3

/-- `CRC_LEN` (R10). -/
def crcLen : Nat := 2

/-- `SERIAL_LEN` (R10). -/
def serialLen : Nat := 4

/-- `BUSADDR_LEN` (R10). -/
def busAddrLen : Nat := 1

/-- `DEVFOUND_BODY_LEN`: the bytes of a device-found frame that its checksum covers (R10, conflict C1). -/
def devFoundBodyLen : Nat := hdrLen + serialLen + busAddrLen

/-- `DEVFOUND_LEN`: a device-found frame after denoising, checksum included (R10, conflict C1). -/
def devFoundLen : Nat := devFoundBodyLen + crcLen

/-- `BAUD[0..7]`, descending (R11, R28). -/
def baudTable : List Nat := [115200, 57600, 38400, 19200, 9600, 4800, 2400, 1200]

/-- `NUM_RATES` (R11). -/
def numRates : Nat := 8

/-- `BAUD[rate_idx]`; index 8 means the sweep is complete and selects no entry (R28, R31). -/
def baudOf (i : Fin 9) : Option Nat := baudTable[i.val]?

/-- `BAUD[i]` for an index that selects an entry (R28). -/
def baudAt (i : Fin 8) : Nat := baudTable[i.val]'i.isLt

end Sys2Proof.Machine
end

