-- ==== Sys2Proof/Machine/Bytes.lean ====
section
/-! DEFINITION. Byte order, widening and the checksum as functions of bytes alone: the helpers the decoder, the encoder and every unit use
(R14, R53, R54, R86, R87, R112 to R116, R141). -/

namespace Sys2Proof.Machine

/-- `zext_16` of a byte (R14). -/
def zext16 (b : Byte) : Word16 := b.setWidth 16

/-- `sext_16` of a byte: defined by the notation for completeness and used by no rule (R14). -/
def sext16 (b : Byte) : Word16 := b.signExtend 16

/-- `c[7:0]` of a checksum: the byte sent first (R53, R86). -/
def crcLo (c : Word16) : Byte := c.extractLsb' 0 8

/-- `c[15:8]` of a checksum: the byte sent last (R53, R86). -/
def crcHi (c : Word16) : Byte := c.extractLsb' 8 8

/-- The two checksum bytes in wire order, little-endian (R53, R86). -/
def crcBytes (c : Word16) : List Byte := [crcLo c, crcHi c]

/-- A 16-bit value from its two wire bytes, low byte first (R53, R86). -/
def le16 (lo hi : Byte) : Word16 := hi ++ lo

/-- A 32-bit value from its four wire bytes, high byte first (R54, R87). -/
def be32 (b3 b2 b1 b0 : Byte) : Word32 := b3 ++ b2 ++ b1 ++ b0

/-- The four wire bytes of a serial number, big-endian (R54, R84). -/
def serialBytes (v : Word32) : List Byte :=
  [v.extractLsb' 24 8, v.extractLsb' 16 8, v.extractLsb' 8 8, v.extractLsb' 0 8]

/-- `CRC.XOR` on the accumulator: only bits 7:0 can change (R112). -/
def crcXor (acc : Word16) (b : Byte) : Word16 := acc ^^^ zext16 b

/-- `CRC.SHIFT` on the accumulator: the low bit is tested before the shift (R113). -/
def crcShift (acc : Word16) : Word16 :=
  if acc.getLsbD 0 then (acc >>> 1) ^^^ crcPoly else acc >>> 1

/-- `n` applications of `CRC.SHIFT` (R114). -/
def crcShifts : Nat → Word16 → Word16
  | 0, acc => acc
  | n + 1, acc => crcShifts n (crcShift acc)

/-- `CRC.BYTE` on the accumulator: one XOR, then exactly eight shifts (R114). -/
def crcByte (acc : Word16) (b : Byte) : Word16 := crcShifts 8 (crcXor acc b)

/-- `CRC.BYTE` for each byte in increasing order (R116, R120). -/
def crcRun (acc : Word16) : List Byte → Word16
  | [] => acc
  | b :: bs => crcRun (crcByte acc b) bs

/-- `CRC.SEQ` as a function of the bytes: the source's `checksum` (R110, R116). -/
def checksum (bs : List Byte) : Word16 := crcRun crcInitValue bs

/-- The source's `denoise`: every 0xFF byte goes, the order of the rest stays (R141). -/
def denoise : List Byte → List Byte
  | [] => []
  | b :: bs => if b = idleFillByte then denoise bs else b :: denoise bs

/-- The three header bytes of a frame with the protocol's constants (R80). -/
def header (sub : Byte) : List Byte := [addrBroadcast, funcExt, sub]

/-- A body followed by its checksum, low byte first (R80, R86). -/
def sealFrame (body : List Byte) : List Byte := body ++ crcBytes (checksum body)

/-- The bytes of a DEV10 frame that its checksum covers (R84). -/
def deviceBody (serial : Word32) (busAddr : Byte) : List Byte :=
  header subResponse ++ serialBytes serial ++ [busAddr]

/-- The bytes of an RSPV frame that its checksum covers (R85). -/
def endedBody (payload : List Byte) : List Byte := header subEnd ++ payload

/-- No byte of the frame is the idle-fill value (R91). -/
def noFill (bs : List Byte) : Bool := bs.all (fun b => b != idleFillByte)

/-- The byte at an index of a sequence already known to be long enough. -/
def byteAt (bs : List Byte) (i : Nat) : Byte := bs.getD i 0#8

/-- The first `n` items at most: a receive returns no more than `RX_MAX` bytes (R214). -/
def takeAtMost {α : Type} : List α → Nat → List α
  | [], _ => []
  | _ :: _, 0 => []
  | a :: as, n + 1 => a :: takeAtMost as n

end Sys2Proof.Machine
end

