-- ==== Sys2Proof/Config.lean ====
section
/-! DEFINITION. What one use of the block fixes and the spec gives no value for: the host's four open parameters (R12, R39, U16),
and the free values (R17, U5, U6): opaque constants without a body, so no proof can see what they are. -/

namespace Sys2Proof.Config

/-- `PORT_ID`, opaque to the core (R12, D9). -/
opaque portId : String

/-- `READ_TIMEOUT`, a duration in no stated unit (R12, D8). -/
opaque readTimeout : Nat

/-- `SETTLE_INTERVAL`, a duration in no stated unit (R12, D7). -/
opaque settleInterval : Nat

/-- How far `RX_MAX` lies above its least legal value (R12, U10). -/
opaque rxSlack : Nat

/-- `RX_MAX`: any number of at least `DEVFOUND_LEN = 10` (R12, D6, U10). -/
def rxMax : Nat := rxSlack + 10

/-- Free value: whether the n-th free draw, made by an open, answers `Opened` (R211, U6, U15). -/
opaque openSucceeds : Nat → Bool

/-- Free value: whether the n-th free draw, made by a write, answers `Written` (R212, U6). -/
opaque writeSucceeds : Nat → Bool

/-- Free value: the bytes the n-th free draw, made by a receive, returns, before the bound `RX_MAX` is put on their number (R214, U5). -/
opaque received : Nat → List Byte

/-- Free value: `crc_bit` after a `CRC.SHIFT` made when it already holds 8; R22 keeps the count within 0 to 8 and R113 adds one,
and the spec states no result for that case. -/
opaque crcBitPast8 : Nat → Fin 9

/-- Free value: which of the eight rates an operation takes that reads `BAUD[rate_idx]` while `rate_idx` is 8, when the table has no entry (R28,
R31); the operand is one of the eight values (R211), and the spec states no result for that case. -/
opaque rateOffTable : Nat → Fin 8

end Sys2Proof.Config
end

