-- ==== Sys2Proof/Syntax.lean ====
section
/-! DEFINITION. The block's operations and wire rows: one constructor per row of spec/opcode_table.json, and the kinds that operations
name (R15, R29, R94, R225, R231). Operations have no binary encoding (R94); the wire rows have (R81, R84, R85). -/

namespace Sys2Proof

/-- The seven outcomes of `DEC.PARSE`: the values of the register `kind` (R29). -/
inductive Kind where
  | scanComplete
  | malformedFrame
  | checksumMismatch
  | unrecognizedFrame
  | scanEnded
  | deviceFound
  | malformedDeviceRecord
  deriving DecidableEq, Repr

/-- The six reportable kinds, the operand of `DIAG.EMIT` (R225). -/
inductive DiagKind where
  | malformedFrame
  | checksumMismatch
  | unrecognizedFrame
  | malformedDeviceRecord
  | transportOpenError
  | transportWriteError
  deriving DecidableEq, Repr

/-- The direction of a wire row on the bus: commands go out, responses and fill bytes come in (R88, R93). -/
inductive Direction where
  | outbound
  | inbound
  deriving DecidableEq, Repr

/-- One constructor per row of spec/opcode_table.json. An operand that the spec takes from a register (`raw` of `DEC.DENOISE` and
`DEC.PARSE`, the bytes of `XPORT.WRITE`, the fields of `REPORT.DEVICE`, the rate of `XPORT.OPEN`; R36) is read from the state and is no
argument here. The checksum of a wire row is no argument: it is always recomputed (R132). -/
inductive Instr where
  /-- `START_SCAN`, the frame `FD 46 01 13 90`; its behaviour is R186. -/
  | startScan
  /-- `CONTINUE_SCAN`, the frame `FD 46 02 53 91`; its behaviour is R192. -/
  | continueScan
  /-- `END_SCAN`, the frame `FD 46 04 D3 93`: the encoder can build it, the sequencer never sends it (R183). -/
  | endScan
  /-- `DEVICE_FOUND`, format DEV10 (R84, R147). -/
  | deviceFound (serial : Word32) (busAddr : Byte)
  /-- `SCAN_ENDED`, format RSPV (R85, R146). -/
  | scanEnded (payload : List Byte)
  /-- `IDLE_FILL`, the byte 0xFF (R91, R141). -/
  | idleFill
  | crcInit
  | crcXor (b : Byte)
  | crcShift
  | crcByte (b : Byte)
  | crcSeq (bytes : List Byte)
  | encBuild (address functionCode subcommand : Byte)
  | decDenoise
  | decValidate
  | decClassify
  | decExtract
  | decParse
  | scanExchange (subcommand : Byte)
  | xportOpen
  | xportWrite
  | xportSettle
  | xportRecv
  | xportClose
  | reportDevice
  | diagEmit (k : DiagKind)
  deriving DecidableEq, Repr

end Sys2Proof
end

