-- ==== Sys2Proof/Machine/State.lean ====
section
/-! DEFINITION. The machine's state as plain data: the core's registers (R20), the environment the core touches (R34, R35), the record of
the events it emitted (R63, R95), the host's parameters (R39), and the model's own three fields. The block has no addressable memory
(R50), so there is no list of cells. -/

namespace Sys2Proof.Machine

/-- The four session states; their binary codes are not observable (R31, R170). -/
inductive Session where
  | idle
  | started
  | continuing
  | ended
  deriving DecidableEq, Repr

/-- The transport's answer to an open (R211). -/
inductive OpenResult where
  | opened
  | openError
  deriving DecidableEq, Repr

/-- The transport's answer to a write (R212). -/
inductive WriteResult where
  | written
  | writeError
  deriving DecidableEq, Repr

/-- `tx_buf`, exactly five bytes with the layout of format CMD5 (R23, R81). -/
structure CmdFrame where
  /-- `tx_buf[0]` -/
  address : Byte
  /-- `tx_buf[1]` -/
  functionCode : Byte
  /-- `tx_buf[2]` -/
  subcommand : Byte
  /-- `tx_buf[3]` -/
  crcLo : Byte
  /-- `tx_buf[4]` -/
  crcHi : Byte
  deriving DecidableEq, Repr

/-- What a diagnostic event carries: the received bytes for a decoder kind, the baud rate for a transport kind (R225). -/
inductive DiagPayload where
  | bytes (raw : List Byte)
  | rate (baud : Nat)
  deriving DecidableEq, Repr

/-- One event on an interface of the core, with the environment's answer where there is one (R63, R95). -/
inductive Event where
  /-- `OPEN <baud> -> ok | fail`, with all three operands (R211). -/
  | opening (port : String) (baud timeout : Nat) (answer : OpenResult)
  /-- `TX <bytes> -> ok | fail` (R212). -/
  | tx (bytes : List Byte) (answer : WriteResult)
  /-- `SETTLE` (R213). -/
  | settle (interval : Nat)
  /-- `RX <bytes>` (R214). -/
  | rx (bytes : List Byte)
  /-- `REPORT serial addr` (R222). -/
  | report (serial : Word32) (busAddr : Byte)
  /-- `DIAG <kind>` (R225). -/
  | diag (kind : DiagKind) (payload : DiagPayload)
  /-- `CLOSE` (R215). -/
  | close
  deriving DecidableEq, Repr

/-- What the reporter puts out, formatting aside: the header, or a row with its sequence number (R223). -/
inductive ReportItem where
  | header
  | row (sequenceNumber : Nat) (serial : Word32) (busAddr : Byte)
  deriving DecidableEq, Repr

/-- The reporter's run-scoped state (R34, R223). -/
structure Reporter where
  /-- `seq_count` -/
  seqCount : Nat
  /-- `header_printed` -/
  headerPrinted : Bool
  /-- What it has put out so far, oldest first. -/
  output : List ReportItem
  deriving DecidableEq, Repr

/-- The environment's answers that are already fixed, each queue oldest first: a scan scenario is the list of these answers (R95, R216).
When a queue is empty the answer is a free value. -/
structure Answers where
  opens : List OpenResult
  writes : List WriteResult
  receives : List (List Byte)
  deriving DecidableEq, Repr

/-- The host's four open parameters, fixed for a run (R12, R39). -/
structure Params where
  /-- `PORT_ID` -/
  portId : String
  /-- `READ_TIMEOUT` -/
  readTimeout : Nat
  /-- `SETTLE_INTERVAL` -/
  settleInterval : Nat
  /-- `RX_MAX` -/
  rxMax : Nat
  deriving DecidableEq, Repr

/-- The value an operation returns to the sequencer: the `result` of R185, R211 and R212, and the kind a step of the decoder raises (R14).
The results that are register contents (`crc_acc`, `tx_buf`, `rx_raw`, `frm`) are read there. -/
inductive Result where
  | opened
  | openError
  | written
  | writeError
  /-- A decoder step ended without raising a kind. -/
  | passed
  /-- A decoder step, `DEC.PARSE` or `SCAN.EXCHANGE` ended with this kind. -/
  | raised (k : Kind)
  /-- `SCAN.EXCHANGE` ended at its write (R185 step 3). -/
  | transportWriteError
  deriving DecidableEq, Repr

/-- Everything the machine holds. -/
structure State where
  /-- `crc_acc` (R21) -/
  crcAcc : Word16
  /-- `crc_bit`, 0 to 8 (R22) -/
  crcBit : Fin 9
  /-- `tx_buf` (R23) -/
  txBuf : CmdFrame
  /-- `rx_raw`; `rx_len` is its length (R24) -/
  rxRaw : List Byte
  /-- `frm`; `frm_len` is its length (R25) -/
  frm : List Byte
  /-- `declared` (R26) -/
  declared : Word16
  /-- `computed` (R26) -/
  computed : Word16
  /-- `crc_ok` (R26) -/
  crcOk : Bool
  /-- `kind` (R29) -/
  kind : Kind
  /-- `serial`; `none` is the spec's own "holds no value" (R30) -/
  serial : Option Word32
  /-- `bus_addr`; `none` is the spec's own "holds no value" (R30) -/
  busAddr : Option Byte
  /-- `state` (R31) -/
  session : Session
  /-- `rate_idx`, 0 to 8 (R31) -/
  rateIdx : Fin 9
  /-- `port_open` (R32) -/
  portOpen : Bool
  /-- The reporter, outside the core (R34). -/
  reporter : Reporter
  /-- The environment's answers still to come (R35, R216). -/
  answers : Answers
  /-- The events emitted since reset, oldest first (R63). -/
  events : List Event
  /-- The host's parameters; no operation writes them (R39). -/
  params : Params
  /-- MODEL'S OWN: the result of the last operation that returns one. -/
  result : Result
  /-- MODEL'S OWN: how many free values have been drawn. -/
  freeCount : Nat
  deriving DecidableEq, Repr

/-- `rx_len` (R24). -/
def State.rxLen (s : State) : Nat := s.rxRaw.length

/-- `frm_len` (R25). -/
def State.frmLen (s : State) : Nat := s.frm.length

/-- Why the machine stops. The hardware has no fault state (R254): each of these marks a use of an operation that the spec's rules forbid and
give no effect for, except `sweepDone`, which is the spec's state without an enabled step. All are safe: the model stops and claims nothing. -/
inductive Fault where
  /-- `XPORT.WRITE`, `XPORT.RECV`, `XPORT.CLOSE`, `SCAN.EXCHANGE` or an inbound row, while `port_open` is 0 (R185, R212, R214, R215). Safe. -/
  | portNotOpen
  /-- `XPORT.OPEN` while a handle is held (R211). Safe. -/
  | portAlreadyOpen
  /-- A buffer is read or written outside its current length (R52). Safe. -/
  | bufferOutOfBounds
  /-- `DEC.CLASSIFY` while `crc_ok` is not 1, or while `frm_len < 5`, when it holds no value (R26, R145). Safe. -/
  | checksumNotGood
  /-- `DEC.EXTRACT` on a frame whose byte 2 is not 0x03 (R147). Safe. -/
  | notDeviceRecord
  /-- `REPORT.DEVICE` while `kind` is not `DeviceFound` or `serial` or `bus_addr` holds no value (R30, R222, U4). Safe. -/
  | noDevice
  /-- `START_SCAN` outside `Idle` with a rate left, or `CONTINUE_SCAN` outside `Continuing`: the guard of the transition fails
  (R186, R192). Safe. -/
  | transitionNotEnabled
  /-- The step in `Idle` with `rate_idx = 8`: the run is over and no step is enabled until reset (R199, U9). The normal end, no error. Safe. -/
  | sweepDone
  deriving DecidableEq, Repr

/-- What the model does not accept. -/
inductive Refusal where
  /-- Raised by `exec` for an instruction that has no meaning yet; no arm raises it now. Safe. -/
  | notModelled (mnemonic : String)
  /-- Raised by the host's reset while a transport is open, a host action the spec gives no step (R262, D26, U8). Safe for claims about
  `step`; a claim that the handle is always closed does not cover it. -/
  | resetWhilePortOpen
  deriving DecidableEq, Repr

/-- The host's parameters before reset release: constants nothing is known of but `RX_MAX >= 10` (R12, R263). -/
def Params.supplied : Params :=
  { portId := Config.portId, readTimeout := Config.readTimeout, settleInterval := Config.settleInterval, rxMax := Config.rxMax }

/-- The machine right after reset (R37, R260): `state`, `rate_idx`, `port_open`, `serial`, `bus_addr` and the reporter as the spec says;
the registers it leaves unspecified at the values of the assumption log. -/
def State.reset : State :=
  { crcAcc := crcInitValue
    crcBit := 0
    txBuf := { address := 0#8, functionCode := 0#8, subcommand := 0#8, crcLo := 0#8, crcHi := 0#8 }
    rxRaw := []
    frm := []
    declared := 0#16
    computed := crcInitValue
    crcOk := false
    kind := .scanComplete
    serial := none
    busAddr := none
    session := .idle
    rateIdx := 0
    portOpen := false
    reporter := { seqCount := 0, headerPrinted := false, output := [] }
    answers := { opens := [], writes := [], receives := [] }
    events := []
    params := Params.supplied
    result := .passed
    freeCount := 0 }

end Sys2Proof.Machine
end

