-- ==== Sys2Proof/Machine/Operands.lean ====
section
/-! DEFINITION. Operand forms: the byte buffers and their bounds (R50 to R52), and the command frame as bytes (R23, R81). The rate operand
and the operand of a diagnostic, which may draw a free value, stand beside the draws in Ops. -/

namespace Sys2Proof.Machine

/-- The answer of an operation: a next state, a fault or a refusal. -/
abbrev Answer := Host.Outcome State Fault Refusal

/-- `MemRead(B, i, n)` handed to the rest of the operation: the `n` bytes from index `i`, inside the buffer's current length only (R14, R52). -/
def memRead (buf : List Byte) (i n : Nat) (k : List Byte → Answer) : Answer :=
  if i + n ≤ buf.length then k ((buf.drop i).take n) else .fault .bufferOutOfBounds

/-- `MemRead(B, i, 1)`: the one byte at index `i` (R51, R52). -/
def readByte (buf : List Byte) (i : Nat) (k : Byte → Answer) : Answer :=
  match buf[i]? with
  | some b => k b
  | none => .fault .bufferOutOfBounds

/-- `MemWrite(B, i, n, v)` with `n` the length of `v`, inside the buffer's current length only (R14, R52; the fault
outside it: log entry 8). The notation of R14, used by no operation: the units write their buffers whole. -/
def memWrite (buf : List Byte) (i : Nat) (v : List Byte) (k : List Byte → Answer) : Answer :=
  if i + v.length ≤ buf.length then k (buf.take i ++ v ++ buf.drop (i + v.length)) else .fault .bufferOutOfBounds

/-- `tx_buf[0..4]`, index 0 first on the wire (R13, R212). -/
def CmdFrame.toBytes (f : CmdFrame) : List Byte := [f.address, f.functionCode, f.subcommand, f.crcLo, f.crcHi]

/-- The five bytes `ENC.BUILD(a, f, s)` leaves in `tx_buf` (R23, R131). -/
def buildFrame (a f s : Byte) : CmdFrame :=
  let c := checksum [a, f, s]
  { address := a, functionCode := f, subcommand := s, crcLo := Sys2Proof.Machine.crcLo c, crcHi := Sys2Proof.Machine.crcHi c }

end Sys2Proof.Machine
end

