-- ==== Sys2Proof/Machine/Flags.lean ====
section
/-! DEFINITION. The values that play the part of flags (R33): `crc_ok`, the class of `kind` the sequencer branches on (R171), `port_open` as a guard,
and the codes of the kinds for tables (R231). -/

namespace Sys2Proof.Machine

/-- `crc_ok` from the two checksums (R26, R144). -/
def crcOkOf (declared computed : Word16) : Bool := declared == computed

/-- The three classes of result kinds; an absorbed error carries the kind its diagnostic names (R171, R225). -/
inductive KindClass where
  | terminal
  | found
  | absorbed (k : DiagKind)
  deriving DecidableEq, Repr

/-- The class of a kind (R171, conflict C5). -/
def classOf : Kind → KindClass
  | .scanComplete => .terminal
  | .scanEnded => .terminal
  | .deviceFound => .found
  | .malformedFrame => .absorbed .malformedFrame
  | .checksumMismatch => .absorbed .checksumMismatch
  | .unrecognizedFrame => .absorbed .unrecognizedFrame
  | .malformedDeviceRecord => .absorbed .malformedDeviceRecord

/-- The code of a value of `kind`, for tables and vectors only (R231, D10). -/
def kindCode : Kind → Nat
  | .deviceFound => 0
  | .scanEnded => 1
  | .scanComplete => 2
  | .malformedFrame => 3
  | .checksumMismatch => 4
  | .unrecognizedFrame => 5
  | .malformedDeviceRecord => 6

/-- The code of a reportable kind, for tables and vectors only (R231, D10). -/
def diagKindCode : DiagKind → Nat
  | .malformedFrame => 3
  | .checksumMismatch => 4
  | .unrecognizedFrame => 5
  | .malformedDeviceRecord => 6
  | .transportOpenError => 7
  | .transportWriteError => 8

/-- `rate_idx + 1`, which stops at 8 and never wraps (R31, R198). -/
def nextRate (i : Fin 9) : Fin 9 := if h : i.val < 8 then ⟨i.val + 1, by omega⟩ else i

/-- Run the rest only while a handle is held: `require port_open == 1` (R185, R212, R214, R215). -/
def requirePort (s : State) (k : Answer) : Answer :=
  if s.portOpen then k else .fault .portNotOpen

end Sys2Proof.Machine
end

