-- ==== Sys2Proof/Machine/Ops.lean ====
section
/-! DEFINITION. The named operations every meaning is built from: sequencing, events, free draws, raising a kind, and the host's reset. -/

namespace Sys2Proof.Machine

/-- Go on with `f` where `o` answers a next state; stop where it stops (R63: an operation completes before the next begins). -/
def andThen (o : Answer) (f : State → Answer) : Answer :=
  match o with
  | .next s => f s
  | .fault r => .fault r
  | .refused r => .refused r

/-- Put an event on its interface: it comes after all earlier ones (R14 `emit`, R63). -/
def emit (e : Event) (s : State) : State := { s with events := s.events ++ [e] }

/-- Return a result to the sequencer (R185, R211, R212). -/
def setResult (r : Result) (s : State) : State := { s with result := r }

/-- `state <- S` (R31). -/
def setSession (x : Session) (s : State) : State := { s with session := x }

/-- `port_open <- v` (R32). -/
def setPort (v : Bool) (s : State) : State := { s with portOpen := v }

/-- Raising a kind, the block's one "exception entry": the step ends with the kind as its result; nothing is saved, no mode changes and control
goes nowhere special (R14, R230, R243). `DEC.PARSE` then writes `kind` (R29, R148), see `recordKind`. There is no return operation (R244). -/
def raiseKind (k : Kind) (s : State) : State := setResult (.raised k) s

/-- The last line of `DEC.PARSE`: `kind <- the kind raised` (R148); `serial` and `bus_addr` hold a value only while it is `DeviceFound`
(R30, D11). -/
def recordKind (k : Kind) (s : State) : State :=
  if k = .deviceFound then { s with kind := k }
  else { s with kind := k, serial := none, busAddr := none }

/-- `draw r in {Opened, OpenError}` (R211): the next fixed answer, else a free value. -/
def drawOpen (s : State) : OpenResult × State :=
  match s.answers.opens with
  | r :: rest => (r, { s with answers := { s.answers with opens := rest } })
  | [] => (if Config.openSucceeds s.freeCount then .opened else .openError, { s with freeCount := s.freeCount + 1 })

/-- `draw w in {Written, WriteError}` (R212): the next fixed answer, else a free value. -/
def drawWrite (s : State) : WriteResult × State :=
  match s.answers.writes with
  | w :: rest => (w, { s with answers := { s.answers with writes := rest } })
  | [] => (if Config.writeSucceeds s.freeCount then .written else .writeError, { s with freeCount := s.freeCount + 1 })

/-- `draw raw` (R214): the next fixed answer, else a free value. -/
def drawReceive (s : State) : List Byte × State :=
  match s.answers.receives with
  | raw :: rest => (raw, { s with answers := { s.answers with receives := rest } })
  | [] => (Config.received s.freeCount, { s with freeCount := s.freeCount + 1 })

/-- `BAUD[rate_idx]` (R28). At index 8, which selects no entry (R31) and for which the spec states no value, it is a free value among the
eight rates (R211; log entry 17). -/
def drawBaud (s : State) : Nat × State :=
  match baudOf s.rateIdx with
  | some baud => (baud, s)
  | none => (baudAt (Config.rateOffTable s.freeCount), { s with freeCount := s.freeCount + 1 })

/-- What a transport diagnostic carries: the rate of the failed session (R225, D15). -/
def ratePayload (s : State) : DiagPayload × State := ((.rate (drawBaud s).1), (drawBaud s).2)

/-- What `DIAG.EMIT(k)` carries: `rx_raw` undenoised for a decoder kind, the failed session's rate for a transport kind (R225, D15). -/
def diagPayload (k : DiagKind) (s : State) : DiagPayload × State :=
  match k with
  | .malformedFrame => (.bytes s.rxRaw, s)
  | .checksumMismatch => (.bytes s.rxRaw, s)
  | .unrecognizedFrame => (.bytes s.rxRaw, s)
  | .malformedDeviceRecord => (.bytes s.rxRaw, s)
  | .transportOpenError => ratePayload s
  | .transportWriteError => ratePayload s

/-- The bytes arrive: at most `RX_MAX` of them become `rx_raw` (R24, R214). -/
def deliver (raw : List Byte) (s : State) : State :=
  let got := takeAtMost raw s.params.rxMax
  emit (.rx got) { s with rxRaw := got }

/-- The reporter takes a device: header once, then a row under the next sequence number (R223). -/
def Reporter.accept (serial : Word32) (busAddr : Byte) (r : Reporter) : Reporter :=
  { seqCount := r.seqCount + 1
    headerPrinted := true
    output := r.output ++ (if r.headerPrinted then [] else [.header]) ++ [.row (r.seqCount + 1) serial busAddr] }

/-- The host asserts and releases reset (R260, R261): control state, data registers and the run-scoped reporter as `State.reset` has them; the
parameters stay the host's (R39), the environment's answers and the count of free values are no state of the core. While a transport is open
the host action has no step (R262, D26, U8). -/
def hostReset (s : State) : Answer :=
  if s.portOpen then .refused .resetWhilePortOpen
  else .next { State.reset with params := s.params, answers := s.answers, freeCount := s.freeCount }

end Sys2Proof.Machine
end

