-- ==== Sys2Proof/Machine/Checksum.lean ====
section
/-! DEFINITION. The checksum unit: `CRC.INIT`, `CRC.XOR`, `CRC.SHIFT`, `CRC.BYTE`, `CRC.SEQ` on the state, in the bit-serial view with `crc_bit`
(R21, R22, R111 to R116, D18). -/

namespace Sys2Proof.Machine

/-- `crc_acc <- 0xFFFF`; `crc_bit` is not written (R111). -/
def initOp (s : State) : State := { s with crcAcc := crcInitValue }

/-- `crc_acc <- crc_acc XOR zext_16(b)`, `crc_bit <- 0` (R112). -/
def xorOp (b : Byte) (s : State) : State := { s with crcAcc := crcXor s.crcAcc b, crcBit := 0 }

/-- One shift iteration, `crc_bit <- crc_bit + 1` (R113). A ninth shift since the last XOR leaves `crc_bit` at a free value within its
range 0 to 8 (R22). -/
def shiftOp (s : State) : State :=
  if h : s.crcBit.val < 8 then { s with crcAcc := crcShift s.crcAcc, crcBit := ⟨s.crcBit.val + 1, by omega⟩ }
  else { s with crcAcc := crcShift s.crcAcc, crcBit := Config.crcBitPast8 s.freeCount, freeCount := s.freeCount + 1 }

/-- One XOR and eight shifts, after which `crc_bit` is 8 (R22, R114). -/
def byteOp (b : Byte) (s : State) : State := { s with crcAcc := crcByte s.crcAcc b, crcBit := 8 }

/-- `CRC.BYTE` for each byte in increasing order (R116). -/
def bytesOp : List Byte → State → State
  | [], s => s
  | b :: bs, s => bytesOp bs (byteOp b s)

/-- `CRC.INIT`, then `CRC.BYTE` for each byte; the result is `crc_acc` (R116, R117). -/
def seqOp (bs : List Byte) (s : State) : State := bytesOp bs (initOp s)

/-- `CRC.INIT` (R111). -/
def execCrcInit (s : State) : Answer := .next (initOp s)

/-- `CRC.XOR(b)` (R112). -/
def execCrcXor (b : Byte) (s : State) : Answer := .next (xorOp b s)

/-- `CRC.SHIFT` (R113). -/
def execCrcShift (s : State) : Answer := .next (shiftOp s)

/-- `CRC.BYTE(b)` (R114). -/
def execCrcByte (b : Byte) (s : State) : Answer := .next (byteOp b s)

/-- `CRC.SEQ(bytes)` (R116). -/
def execCrcSeq (bytes : List Byte) (s : State) : Answer := .next (seqOp bytes s)

end Sys2Proof.Machine
end

