-- ==== Sys2Proof/Machine/Encoder.lean ====
section
/-! DEFINITION. The serial frame encoder: `ENC.BUILD` (R130 to R138). -/

namespace Sys2Proof.Machine

/-- All five bytes of `tx_buf`, and `crc_acc` as a by-product; defined for all operand triples (R131 to R133).
MODEL'S CHOICE (log entry 18): `crc_bit` ends at 8, as R22 and R112 to R116 have it for the bytes summed, where
R36's table leaves the cell of `ENC.BUILD` empty. -/
def buildOp (a f s : Byte) (st : State) : State :=
  let summed := seqOp [a, f, s] st
  { summed with
    txBuf :=
      { address := a, functionCode := f, subcommand := s, crcLo := crcLo summed.crcAcc, crcHi := crcHi summed.crcAcc } }

/-- `ENC.BUILD(a, f, s)` (R131). -/
def execEncBuild (address functionCode subcommand : Byte) (s : State) : Answer :=
  .next (buildOp address functionCode subcommand s)

end Sys2Proof.Machine
end

