-- ==== Sys2Proof/Machine/Report.lean ====
section
/-! DEFINITION. What the core produces besides bus traffic: `REPORT.DEVICE` (R222, R223) and `DIAG.EMIT` (R225). -/

namespace Sys2Proof.Machine

/-- Hand the two decoded fields to the reporter, which never refuses; the core reads them and keeps its registers (R36, R222, R223). -/
def reportOp (s : State) : Answer :=
  if s.kind = .deviceFound then
    match s.serial, s.busAddr with
    | some n, some a => .next (emit (.report n a) { s with reporter := s.reporter.accept n a })
    | some _, none => .fault .noDevice
    | none, _ => .fault .noDevice
  else .fault .noDevice

/-- Emit one diagnostic event, in every state; the sink never refuses (R225, D16). -/
def diagOp (k : DiagKind) (s : State) : Answer :=
  let (payload, drawn) := diagPayload k s
  .next (emit (.diag k payload) drawn)

/-- `REPORT.DEVICE` (R222). -/
def execReportDevice (s : State) : Answer := reportOp s

/-- `DIAG.EMIT(k)` (R225). -/
def execDiagEmit (k : DiagKind) (s : State) : Answer := diagOp k s

end Sys2Proof.Machine
end

