-- ==== Sys2Proof/Machine/Transport.lean ====
section
/-! DEFINITION. The transport interface as the core sees it: `XPORT.OPEN`, `XPORT.WRITE`, `XPORT.SETTLE`, `XPORT.RECV`, `XPORT.CLOSE`
(R210 to R216). -/

namespace Sys2Proof.Machine

/-- Ask the transport to open at `BAUD[rate_idx]`, a free value among the eight rates at index 8 (log entry 17); `port_open <- 1` on `Opened`,
and no handle may be held before (R186 step 3, R211). -/
def openOp (s : State) : Answer :=
  if s.portOpen then .fault .portAlreadyOpen
  else
    let (baud, rated) := drawBaud s
    let (r, drawn) := drawOpen rated
    let asked := emit (.opening s.params.portId baud s.params.readTimeout r) drawn
    .next
      (match r with
       | .opened => setResult .opened (setPort true asked)
       | .openError => setResult .openError asked)

/-- Hand the five bytes of `tx_buf` to the transport (R212). -/
def writeOp (s : State) : Answer :=
  requirePort s <|
    let (w, drawn) := drawWrite s
    let sent := emit (.tx s.txBuf.toBytes w) drawn
    .next
      (match w with
       | .written => setResult .written sent
       | .writeError => setResult .writeError sent)

/-- Wait the settle interval: no register changes; the event keeps the order write, wait, read explicit (R213, D7). -/
def settleOp (s : State) : State := emit (.settle s.params.settleInterval) s

/-- One receive transaction of 0 to `RX_MAX` bytes (R214). -/
def recvOp (s : State) : Answer :=
  requirePort s <|
    let (raw, drawn) := drawReceive s
    .next (deliver raw drawn)

/-- Release the transport (R215). -/
def closeOp (s : State) : Answer :=
  requirePort s (.next (emit .close (setPort false s)))

/-- `XPORT.OPEN` (R211). -/
def execXportOpen (s : State) : Answer := openOp s

/-- `XPORT.WRITE` (R212). -/
def execXportWrite (s : State) : Answer := writeOp s

/-- `XPORT.SETTLE` (R213). -/
def execXportSettle (s : State) : Answer := .next (settleOp s)

/-- `XPORT.RECV` (R214). -/
def execXportRecv (s : State) : Answer := recvOp s

/-- `XPORT.CLOSE` (R215). -/
def execXportClose (s : State) : Answer := closeOp s

end Sys2Proof.Machine
end

