-- ==== Sys2Proof/WellFormed.lean ====
section
/-! DEFINITION. Which instructions the spec's formats admit: a response frame holds no byte 0xFF anywhere, checksum included (R84, R85, R91);
every other row and operation is defined for all its operands (R110, R133, R225). -/

namespace Sys2Proof

open Machine

/-- The checks a row's operands must pass for its frame to be one the decoder can ever see whole (R91). -/
def Instr.wellFormed : Instr → Bool
  | .deviceFound serial busAddr => noFill (sealFrame (deviceBody serial busAddr))
  | .scanEnded payload => noFill (sealFrame (endedBody payload))
  | .startScan => true
  | .continueScan => true
  | .endScan => true
  | .idleFill => true
  | .crcInit => true
  | .crcXor _ => true
  | .crcShift => true
  | .crcByte _ => true
  | .crcSeq _ => true
  | .encBuild _ _ _ => true
  | .decDenoise => true
  | .decValidate => true
  | .decClassify => true
  | .decExtract => true
  | .decParse => true
  | .scanExchange _ => true
  | .xportOpen => true
  | .xportWrite => true
  | .xportSettle => true
  | .xportRecv => true
  | .xportClose => true
  | .reportDevice => true
  | .diagEmit _ => true

end Sys2Proof
end

