-- ==== Sys2Proof/Decode.lean ====
section
/-! DEFINITION. Reading a wire row from its bytes and writing it again. The direction is part of the question: the bytes `FD 46 04 D3 93`
are the command END_SCAN going out and the shortest SCAN_ENDED coming in (R85, R93). The 19 internal operations have no encoding (R94). -/

namespace Sys2Proof

open Machine

/-- Why a byte sequence is no row of the table in the direction asked about; each name says which test it fails (R90, R93). -/
inductive DecodeError where
  /-- Outbound: the bytes are none of the three command frames (R82). -/
  | notACommand
  /-- Inbound: no bytes at all, which is silence and no frame (R90). -/
  | noBytes
  /-- Inbound: fewer than 5 bytes (R90, R143). -/
  | tooShort
  /-- Inbound: a byte 0xFF stands inside, which no frame holds once the fill bytes are deleted (R91). -/
  | fillInside
  /-- Inbound: the last two bytes are not the checksum of the rest (R144). -/
  | badChecksum
  /-- Inbound: byte 0 is not 0xFD or byte 1 is not 0x46 (R92). -/
  | wrongHeader
  /-- Inbound: byte 2 is neither 0x03 nor 0x04 (R88). -/
  | unknownType
  /-- Inbound: byte 2 is 0x03 and the length is not 10 (R84, R88). -/
  | wrongDeviceLength
  deriving DecidableEq, Repr

/-- The outbound rows of the table, each with its whole frame (R82). -/
def commandRows : List (List Byte × Instr) :=
  [ ([0xFD#8, 0x46#8, 0x01#8, 0x13#8, 0x90#8], .startScan),
    ([0xFD#8, 0x46#8, 0x02#8, 0x53#8, 0x91#8], .continueScan),
    ([0xFD#8, 0x46#8, 0x04#8, 0xD3#8, 0x93#8], .endScan) ]

/-- The first row whose frame is `bs`. -/
def lookupRow (bs : List Byte) : List (List Byte × Instr) → Option Instr
  | [] => none
  | (frame, i) :: rows => if bs = frame then some i else lookupRow bs rows

/-- An outbound frame: compared as a whole (R82, R93). -/
def decodeOutbound (bs : List Byte) : Except DecodeError Instr :=
  match lookupRow bs commandRows with
  | some i => .ok i
  | none => .error .notACommand

/-- What a frame with a good checksum is, from its body (everything but the two checksum bytes): the header test, then byte 2
(R84, R85, R88, R92). -/
def decodeBody : List Byte → Except DecodeError Instr
  | a :: f :: t :: rest =>
    if a ≠ addrBroadcast ∨ f ≠ funcExt then .error .wrongHeader
    else if t = subEnd then .ok (.scanEnded rest)
    else if t = subResponse then
      match rest with
      | [b3, b2, b1, b0, d] => .ok (.deviceFound (be32 b3 b2 b1 b0) d)
      | _ => .error .wrongDeviceLength
    else .error .unknownType
  | _ => .error .tooShort

/-- An inbound row: the lone fill byte, or a frame of at least 5 bytes none of which is 0xFF, whose last two bytes are the checksum
of the rest (R83 to R85, R91, R93). -/
def decodeInbound (bs : List Byte) : Except DecodeError Instr :=
  if bs = [] then .error .noBytes
  else if bs = [idleFillByte] then .ok .idleFill
  else if noFill bs = false then .error .fillInside
  else if bs.length < minFrameLen then .error .tooShort
  else
    let body := bs.take (bs.length - crcLen)
    if bs.drop (bs.length - crcLen) = crcBytes (checksum body) then decodeBody body
    else .error .badChecksum

/-- The instruction a frame is, in the direction it travels. -/
def decode : Direction → List Byte → Except DecodeError Instr
  | .outbound, bs => decodeOutbound bs
  | .inbound, bs => decodeInbound bs

/-- The direction of a row, `none` for an internal operation (R93, R94). -/
def Instr.direction : Instr → Option Direction
  | .startScan => some .outbound
  | .continueScan => some .outbound
  | .endScan => some .outbound
  | .deviceFound _ _ => some .inbound
  | .scanEnded _ => some .inbound
  | .idleFill => some .inbound
  | .crcInit => none
  | .crcXor _ => none
  | .crcShift => none
  | .crcByte _ => none
  | .crcSeq _ => none
  | .encBuild _ _ _ => none
  | .decDenoise => none
  | .decValidate => none
  | .decClassify => none
  | .decExtract => none
  | .decParse => none
  | .scanExchange _ => none
  | .xportOpen => none
  | .xportWrite => none
  | .xportSettle => none
  | .xportRecv => none
  | .xportClose => none
  | .reportDevice => none
  | .diagEmit _ => none

/-- The frame of a device-found response, as a device sends it (R84). -/
def deviceFrame (serial : Word32) (busAddr : Byte) : List Byte := sealFrame (deviceBody serial busAddr)

/-- The frame of a scan-ended response, as a device sends it (R85). -/
def endedFrame (payload : List Byte) : List Byte := sealFrame (endedBody payload)

/-- The bytes of a wire row in wire order, built from the format's fields and a recomputed checksum; `none` for an internal operation
(R81, R84, R85, R91, R94). -/
def encode : Instr → Option (List Byte)
  | .startScan => some (sealFrame (header subStart))
  | .continueScan => some (sealFrame (header subContinue))
  | .endScan => some (sealFrame (header subEnd))
  | .deviceFound serial busAddr => some (deviceFrame serial busAddr)
  | .scanEnded payload => some (endedFrame payload)
  | .idleFill => some [idleFillByte]
  | .crcInit => none
  | .crcXor _ => none
  | .crcShift => none
  | .crcByte _ => none
  | .crcSeq _ => none
  | .encBuild _ _ _ => none
  | .decDenoise => none
  | .decValidate => none
  | .decClassify => none
  | .decExtract => none
  | .decParse => none
  | .scanExchange _ => none
  | .xportOpen => none
  | .xportWrite => none
  | .xportSettle => none
  | .xportRecv => none
  | .xportClose => none
  | .reportDevice => none
  | .diagEmit _ => none

/-- The `n` low bytes of a number, the most significant first: the table writes a frame as one number with byte 0 most significant
(R81, R93). -/
def bytesHighFirst : Nat → Nat → List Byte
  | 0, _ => []
  | n + 1, w => BitVec.ofNat 8 (w / 256 ^ n) :: bytesHighFirst n w

/-- The row a byte sequence is when the direction is not given: a command if it is one, else an inbound row. -/
def decodeEither (bs : List Byte) : Option Instr :=
  match decodeOutbound bs with
  | .ok i => some i
  | .error _ =>
    match decodeInbound bs with
    | .ok i => some i
    | .error _ => none

/-- The bytes, in wire order, of a table word of `nbits` bits: one big-endian number, byte 0 most significant (R93). -/
def tableBytes (nbits w : Nat) : List Byte := bytesHighFirst (nbits / 8) w

/-- The row a table word of `nbits` bits is; no other order of its bytes is tried (R93). -/
def decodeTableWord (nbits w : Nat) : Option Instr := decodeEither (tableBytes nbits w)

end Sys2Proof
end

