-- ==== Sys2Proof/Machine/Decoder.lean ====
section
/-! DEFINITION. The serial frame decoder and checksum validator: `DEC.DENOISE`, `DEC.VALIDATE`, `DEC.CLASSIFY`, `DEC.EXTRACT`, `DEC.PARSE`
(R140 to R152). Each step returns the kind it raises, or passes; only `DEC.PARSE` writes `kind` (R29, R36). -/

namespace Sys2Proof.Machine

/-- `frm <- denoise(rx_raw)`; `rx_raw` stays (R141, R152). -/
def denoiseOp (s : State) : State := { s with frm := denoise s.rxRaw }

/-- The length test, then the checksum test; `declared`, `computed` and `crc_ok` are written only when the length test passes (R143, R144).
MODEL'S CHOICE (log entry 18): `crc_bit` ends at 8, as R22 and R112 to R116 have it for the bytes summed,
where R36's table leaves the cell of `DEC.VALIDATE` empty. -/
def validateOp (s : State) : Answer :=
  if s.frmLen < minFrameLen then .next (raiseKind .malformedFrame s)
  else
    readByte s.frm (s.frmLen - 2) fun lo =>
    readByte s.frm (s.frmLen - 1) fun hi =>
    memRead s.frm 0 (s.frmLen - crcLen) fun covered =>
      let summed := seqOp covered s
      let d := le16 lo hi
      let c := summed.crcAcc
      let written := { summed with declared := d, computed := c, crcOk := crcOkOf d c }
      .next (if written.crcOk then setResult .passed written else raiseKind .checksumMismatch written)

/-- The header test, then the type test on byte 2 (R145, R146). The precondition is `crc_ok == 1`; `crc_ok` holds a value of the present
frame only while `frm_len >= 5` (R26, R143), so a shorter frame fails the precondition whatever the bit is. -/
def classifyOp (s : State) : Answer :=
  if s.crcOk ∧ minFrameLen ≤ s.frmLen then
    readByte s.frm 0 fun b0 =>
    readByte s.frm 1 fun b1 =>
      if b0 ≠ addrBroadcast ∨ b1 ≠ funcExt then .next (raiseKind .unrecognizedFrame s)
      else
        readByte s.frm 2 fun b2 =>
          .next
            (if b2 = subEnd then raiseKind .scanEnded s
             else if b2 = subResponse then setResult .passed s
             else raiseKind .unrecognizedFrame s)
  else .fault .checksumNotGood

/-- The length-10 test and the two fields; the precondition is byte 2 = 0x03 (R147, conflict C1). -/
def extractOp (s : State) : Answer :=
  readByte s.frm 2 fun b2 =>
    if b2 = subResponse then
      if s.frmLen ≠ devFoundLen then .next (raiseKind .malformedDeviceRecord s)
      else
        readByte s.frm 3 fun b3 =>
        readByte s.frm 4 fun b4 =>
        readByte s.frm 5 fun b5 =>
        readByte s.frm 6 fun b6 =>
        readByte s.frm 7 fun b7 =>
          .next (raiseKind .deviceFound { s with serial := some (be32 b3 b4 b5 b6), busAddr := some b7 })
    else .fault .notDeviceRecord

/-- The first step of `DEC.PARSE` that raises ends it (R148): go on with `f` only after a step that passed, else record the kind raised. -/
def unlessRaised (f : State → Answer) (s : State) : Answer :=
  match s.result with
  | .raised k => .next (recordKind k s)
  | .opened => f s
  | .openError => f s
  | .written => f s
  | .writeError => f s
  | .passed => f s
  | .transportWriteError => f s

/-- The seven steps in order (R142 to R148): the emptiness test on the undenoised bytes comes first.
`crc_bit` as in `validateOp` (log entry 18). -/
def parseOp (s : State) : Answer :=
  if s.rxRaw = [] then .next (recordKind .scanComplete (raiseKind .scanComplete s))
  else
    andThen (validateOp (denoiseOp s)) <|
      unlessRaised fun s2 =>
        andThen (classifyOp s2) <|
          unlessRaised fun s3 =>
            andThen (extractOp s3) <|
              unlessRaised fun s4 => .next s4

/-- `DEC.DENOISE` (R141). -/
def execDecDenoise (s : State) : Answer := .next (denoiseOp s)

/-- `DEC.VALIDATE` (R143, R144). -/
def execDecValidate (s : State) : Answer := validateOp s

/-- `DEC.CLASSIFY` (R145, R146). -/
def execDecClassify (s : State) : Answer := classifyOp s

/-- `DEC.EXTRACT` (R147). -/
def execDecExtract (s : State) : Answer := extractOp s

/-- `DEC.PARSE` (R148, R149). -/
def execDecParse (s : State) : Answer := parseOp s

end Sys2Proof.Machine
end

