-- ==== Sys2Proof/Machine/Wire.lean ====
section
/-! DEFINITION. The inbound rows of the table: a frame or a fill byte that arrives is the answer of one receive and is then parsed
(R83, R90, R214). What the decoder makes of it is the row's effect; the sequencer's reaction is a transition of its own. -/

namespace Sys2Proof.Machine

/-- `XPORT.RECV` answered with these bytes, then `DEC.PARSE` (R185 steps 5 and 6). -/
def receiveAndParse (raw : List Byte) (s : State) : Answer :=
  requirePort s (parseOp (deliver raw s))

/-- `DEVICE_FOUND`: a device's answer in format DEV10 (R84, R147). -/
def execDeviceFound (serial : Word32) (busAddr : Byte) (s : State) : Answer :=
  receiveAndParse (deviceFrame serial busAddr) s

/-- `SCAN_ENDED`: the end of the scan in format RSPV (R85, R146). -/
def execScanEnded (payload : List Byte) (s : State) : Answer := receiveAndParse (endedFrame payload) s

/-- `IDLE_FILL`: one received byte 0xFF, which denoising deletes (R91, R141, R142). -/
def execIdleFill (s : State) : Answer := receiveAndParse [idleFillByte] s

end Sys2Proof.Machine
end

