-- ==== Sys2Proof/Machine/Scan.lean ====
section
/-! DEFINITION. The exchange (R185) and the outbound rows of the table: `START_SCAN` and `CONTINUE_SCAN` are the transitions that send those
commands (R186 to R188, R192 to R195), `END_SCAN` is a frame the encoder can build and nothing sends (R183). -/

namespace Sys2Proof.Machine

/-- Steps 4 to 7 of an exchange whose write was answered `Written`: settle, one receive, parse (R185). -/
def readBack (s : State) : Answer :=
  let (raw, drawn) := drawReceive (settleOp s)
  receiveAndParse raw drawn

/-- `SCAN.EXCHANGE(sub)` (R185): build, write, and unless the write failed settle, receive, parse; no retry and no second receive. -/
def exchangeOp (sub : Byte) (s : State) : Answer :=
  requirePort s <|
    andThen (writeOp (buildOp addrBroadcast funcExt sub s)) fun w =>
      if w.result = .writeError then .next (setResult .transportWriteError w) else readBack w

/-- The end of a session whose write failed: diagnostic, `state <- Ended`, the port stays open for the close to come (R188, D5). -/
def writeFailed (s : State) : Answer :=
  andThen (diagOp .transportWriteError s) fun d => .next (setSession .ended d)

/-- The sequencer's reaction to the kind of the last parse, in the start step and in the continue loop alike: report or diagnose and go on
with a continue-scan, or end the session (R189 to R195, D3). -/
def actOnKind (s : State) : Answer :=
  match classOf s.kind with
  | .terminal => .next (setSession .ended s)
  | .found => andThen (reportOp s) fun r => .next (setSession .continuing r)
  | .absorbed k => andThen (diagOp k s) fun d => .next (setSession .continuing d)

/-- The transition out of `Idle`: open, then the start-scan exchange, whose outcome waits in `kind` (R186); an open failure skips the
rate without a close (R187), a write failure ends the session (R188). -/
def startTransition (s : State) : Answer :=
  if s.session = .idle ∧ s.rateIdx.val < numRates then
    andThen (openOp s) fun o =>
      if o.result = .openError then
        andThen (diagOp .transportOpenError o) fun d => .next (setSession .ended d)
      else
        andThen (exchangeOp subStart o) fun x =>
          if x.result = .transportWriteError then writeFailed x else .next (setSession .started x)
  else .fault .transitionNotEnabled

/-- The step taken in `Continuing`: a continue-scan exchange and the reaction to it (R192). -/
def continueTransition (s : State) : Answer :=
  if s.session = .continuing then
    andThen (exchangeOp subContinue s) fun x =>
      if x.result = .transportWriteError then writeFailed x else actOnKind x
  else .fault .transitionNotEnabled

/-- `START_SCAN` (R186). -/
def execStartScan (s : State) : Answer := startTransition s

/-- `CONTINUE_SCAN` (R192). -/
def execContinueScan (s : State) : Answer := continueTransition s

/-- `END_SCAN`: the encoder builds the frame if asked; nothing is sent and no transition is taken (R133, R183, conflict C4). -/
def execEndScan (s : State) : Answer := .next (buildOp addrBroadcast funcExt subEnd s)

/-- `SCAN.EXCHANGE(sub)` (R185). -/
def execScanExchange (subcommand : Byte) (s : State) : Answer := exchangeOp subcommand s

end Sys2Proof.Machine
end

