-- ==== Sys2Proof/Machine/Dispatch.lean ====
section
/-! DEFINITION. One arm per constructor of Instr, each one direct call of its meaning. -/

namespace Sys2Proof.Machine

def exec (i : Instr) (s : State) : Host.Outcome State Fault Refusal :=
  match i with
  | .startScan => Sys2Proof.Machine.execStartScan s
  | .continueScan => Sys2Proof.Machine.execContinueScan s
  | .endScan => Sys2Proof.Machine.execEndScan s
  | .deviceFound serial busAddr => Sys2Proof.Machine.execDeviceFound serial busAddr s
  | .scanEnded payload => Sys2Proof.Machine.execScanEnded payload s
  | .idleFill => Sys2Proof.Machine.execIdleFill s
  | .crcInit => Sys2Proof.Machine.execCrcInit s
  | .crcXor b => Sys2Proof.Machine.execCrcXor b s
  | .crcShift => Sys2Proof.Machine.execCrcShift s
  | .crcByte b => Sys2Proof.Machine.execCrcByte b s
  | .crcSeq bytes => Sys2Proof.Machine.execCrcSeq bytes s
  | .encBuild a f sub => Sys2Proof.Machine.execEncBuild a f sub s
  | .decDenoise => Sys2Proof.Machine.execDecDenoise s
  | .decValidate => Sys2Proof.Machine.execDecValidate s
  | .decClassify => Sys2Proof.Machine.execDecClassify s
  | .decExtract => Sys2Proof.Machine.execDecExtract s
  | .decParse => Sys2Proof.Machine.execDecParse s
  | .scanExchange sub => Sys2Proof.Machine.execScanExchange sub s
  | .xportOpen => Sys2Proof.Machine.execXportOpen s
  | .xportWrite => Sys2Proof.Machine.execXportWrite s
  | .xportSettle => Sys2Proof.Machine.execXportSettle s
  | .xportRecv => Sys2Proof.Machine.execXportRecv s
  | .xportClose => Sys2Proof.Machine.execXportClose s
  | .reportDevice => Sys2Proof.Machine.execReportDevice s
  | .diagEmit k => Sys2Proof.Machine.execDiagEmit k s

end Sys2Proof.Machine
end

