-- ==== Sys2Proof/Machine/Sequencer.lean ====
section
/-! DEFINITION. The sequencer: which operation the control state selects (R31, R94), the transition it belongs to (R186 to R199), and the placing of
a wire row where the next step meets it. -/

namespace Sys2Proof.Machine

/-- The operation the sequencer's state selects; the block fetches nothing (R1, R31, R68, R94). `none`: the next transition consists of a
change of control state only (R189, R198 with no handle held), or no transition is enabled (R199). -/
def selected (s : State) : Option Instr :=
  match s.session with
  | .idle => if s.rateIdx.val < numRates then some .startScan else none
  | .started =>
    match classOf s.kind with
    | .terminal => none
    | .found => some .reportDevice
    | .absorbed k => some (.diagEmit k)
  | .continuing => some .continueScan
  | .ended => if s.portOpen then some .xportClose else none

/-- The transition `Started -> Ended` or `Started -> Continuing`: the reaction to the start exchange (R189 to R191). -/
def startedTransition (s : State) : Answer :=
  match classOf s.kind with
  | .terminal => .next (setSession .ended s)
  | .found => andThen (exec .reportDevice s) fun r => .next (setSession .continuing r)
  | .absorbed k => andThen (exec (.diagEmit k) s) fun d => .next (setSession .continuing d)

/-- `rate_idx <- rate_idx + 1`, `state <- Idle` (R198 steps 2 and 3). -/
def advanceRate (s : State) : State := setSession .idle { s with rateIdx := nextRate s.rateIdx }

/-- The transition `Ended -> Idle`: close if a handle is held, then advance (R198). -/
def endedTransition (s : State) : Answer :=
  if s.portOpen then andThen (exec .xportClose s) fun c => .next (advanceRate c) else .next (advanceRate s)

/-- One transition of the scan FSM, atomic (R186 to R199, D12). -/
def transition (s : State) : Answer :=
  match s.session with
  | .idle => if s.rateIdx.val < numRates then exec .startScan s else .fault .sweepDone
  | .started => startedTransition s
  | .continuing => exec .continueScan s
  | .ended => endedTransition s

/-- Put these bytes in front of the receive answers, with an open and a write that succeed. -/
def placeAnswers (raw : List Byte) (s : State) : State :=
  { s with
    answers :=
      { opens := .opened :: s.answers.opens
        writes := .written :: s.answers.writes
        receives := raw :: s.answers.receives } }

/-- The control state whose next transition is the start-scan exchange, at the current rate if one is left. -/
def placeStart (s : State) : State :=
  { s with session := .idle, portOpen := false, rateIdx := if s.rateIdx.val < numRates then s.rateIdx else 0 }

/-- The control state whose next transition is the continue-scan exchange. -/
def placeContinue (s : State) : State :=
  { s with session := .continuing, portOpen := true, rateIdx := if s.rateIdx.val < numRates then s.rateIdx else 0 }

/-- A control state whose next transition makes an exchange: the current one where it does, else the continue loop. -/
def placeExchange (s : State) : State :=
  if s.session = .idle ∧ s.rateIdx.val < numRates then placeStart s else placeContinue s

/-- The state whose next step meets a wire row. A command row is selected by the control state, since the core builds it itself (R134): its
exchange is answered with silence. Any other row, and bytes that are no row, arrive from the bus: they are the answer of the next receive.
`END_SCAN` is never sent (R183), so its bytes are placed as received (R279). -/
def placeRow (i : Option Instr) (raw : List Byte) (s : State) : State :=
  match i with
  | some .startScan => placeStart (placeAnswers [] s)
  | some .continueScan => placeContinue (placeAnswers [] s)
  | _ => placeExchange (placeAnswers raw s)

end Sys2Proof.Machine
end

