-- ==== Sys2Proof/Machine/Step.lean ====
section
/-! DEFINITION. One step of the machine: one transition of the scan FSM (D12). -/

namespace Sys2Proof.Machine

/-- The machine's step (R186 to R199). -/
def step (s : State) : Host.Outcome State Fault Refusal := transition s

/-- The state in which a table word's row is what the next step meets; see `placeRow`. -/
def State.withFetchWord (s : State) (nbits w : Nat) : State :=
  placeRow (decodeTableWord nbits w) (tableBytes nbits w) s

end Sys2Proof.Machine
end

