-- ==== Sys2Proof/Safety.lean ====
section
/-! DEFINITION. What counts as a good state and a good run, in the terms claims use: the end of a run (R200), the invariants of the control state,
of the data and of the reporter (95 section 2.4, R26, R30, R91, R223), the decoder's decision tree (R149), and the shape of the event trace (R202). -/

namespace Sys2Proof.Safety

open Machine

/-- `sweep_done` (R200). -/
abbrev SweepDone (s : State) : Prop := s.rateIdx.val = 8 ∧ s.session = .idle ∧ s.portOpen = false

/-- How `port_open` and `rate_idx` go with `state` (95 section 2.4). -/
abbrev ControlInv (s : State) : Prop :=
  (s.session = .idle → s.portOpen = false) ∧
  (s.session = .started ∨ s.session = .continuing → s.portOpen = true) ∧
  (s.rateIdx.val = 8 → s.session = .idle)

/-- A byte that survived denoising (R91). -/
abbrev NotFill (b : Byte) : Prop := b ≠ 0xFF#8

/-- The buffers' capacities (R24, R25, D24), the absence of 0xFF from everything decoded (R91), the meaning of `crc_ok` (R26), and when
`serial` and `bus_addr` hold a value (R30, D11). -/
abbrev DataInv (s : State) : Prop :=
  10 ≤ s.params.rxMax ∧ s.rxRaw.length ≤ s.params.rxMax ∧ s.frm.length ≤ s.params.rxMax ∧
  (∀ b ∈ s.frm, NotFill b) ∧
  NotFill (s.declared.extractLsb' 0 8) ∧ NotFill (s.declared.extractLsb' 8 8) ∧
  (s.crcOk = true ↔ s.declared = s.computed) ∧
  (s.serial.isSome = true ↔ s.kind = .deviceFound) ∧ (s.busAddr.isSome = true ↔ s.kind = .deviceFound) ∧
  (∀ v ∈ s.serial, ∀ b ∈ serialBytes v, NotFill b) ∧ (∀ b ∈ s.busAddr, NotFill b)

/-- The outcome of `DEC.PARSE` as a function of the bytes received: the decision tree of R149. -/
def parseTree (raw : List Byte) : Kind :=
  let f := raw.filter (fun b => b != 0xFF#8)
  let n := f.length
  if raw = [] then .scanComplete
  else if n < 5 then .malformedFrame
  else if (byteAt f (n - 1)).toNat * 256 + (byteAt f (n - 2)).toNat ≠ (checksum (f.take (n - 2))).toNat then .checksumMismatch
  else if byteAt f 0 ≠ 0xFD#8 ∨ byteAt f 1 ≠ 0x46#8 then .unrecognizedFrame
  else if byteAt f 2 = 0x04#8 then .scanEnded
  else if byteAt f 2 = 0x03#8 then
    if n = 10 then .deviceFound else .malformedDeviceRecord
  else .unrecognizedFrame

/-- `serial` of a device-found frame (R87, R147). -/
def treeSerial (raw : List Byte) : Word32 :=
  let f := raw.filter (fun b => b != 0xFF#8)
  BitVec.ofNat 32 ((byteAt f 3).toNat * 2 ^ 24 + (byteAt f 4).toNat * 2 ^ 16 + (byteAt f 5).toNat * 2 ^ 8 + (byteAt f 6).toNat)

/-- `bus_addr` of a device-found frame (R87, R147). -/
def treeBusAddr (raw : List Byte) : Byte := byteAt (raw.filter (fun b => b != 0xFF#8)) 7

/-- While a session is `Started`, `kind` and the device fields are what the last receive parses to (R170, R186). -/
abbrev StartedInv (s : State) : Prop :=
  s.session = .started →
    s.kind = parseTree s.rxRaw ∧
    (s.kind = .deviceFound → s.serial = some (treeSerial s.rxRaw) ∧ s.busAddr = some (treeBusAddr s.rxRaw))

/-- Where a run stands between two events: what the next event must be (R64, R185 to R198, R202). `r` is the rate index. -/
inductive Phase where
  /-- No handle is held; an open at rate `r` comes next. -/
  | between (r : Nat)
  /-- The open failed; its diagnostic comes next. -/
  | openFailed (r : Nat)
  /-- A handle is held; the command with this subcommand comes next. -/
  | ready (r : Nat) (sub : Byte)
  /-- The command is written; the settle wait comes next. -/
  | sent (r : Nat)
  /-- The wait is over; the receive comes next. -/
  | settled (r : Nat)
  /-- Bytes came that end no session; the report or the diagnostic comes next. -/
  | answered (r : Nat) (raw : List Byte)
  /-- The write failed; its diagnostic comes next. -/
  | writeFailed (r : Nat)
  /-- The session is over; the close comes next. -/
  | closing (r : Nat)
  deriving DecidableEq, Repr

/-- The frame the sequencer sends for a subcommand: `FD 46 sub` and the checksum, low byte first (R81, R134). -/
def commandFrame (sub : Byte) : List Byte :=
  let c := checksum [0xFD#8, 0x46#8, sub]
  [0xFD#8, 0x46#8, sub, c.extractLsb' 0 8, c.extractLsb' 8 8]

/-- The phase after an event, `none` where the event may not come (R202). -/
def nextPhase (p : Params) : Phase → Event → Option Phase
  | .between r, .opening port baud timeout answer =>
    if port = p.portId ∧ timeout = p.readTimeout ∧ baudTable[r]? = some baud then
      some (match answer with | .opened => .ready r 0x01#8 | .openError => .openFailed r)
    else none
  | .openFailed r, .diag k (.rate baud) =>
    if k = .transportOpenError ∧ baudTable[r]? = some baud then some (.between (r + 1)) else none
  | .ready r sub, .tx bytes answer =>
    if bytes = commandFrame sub then
      some (match answer with | .written => .sent r | .writeError => .writeFailed r)
    else none
  | .sent r, .settle interval => if interval = p.settleInterval then some (.settled r) else none
  | .settled r, .rx raw =>
    if raw.length ≤ p.rxMax then
      some (if classOf (parseTree raw) = .terminal then .closing r else .answered r raw)
    else none
  | .answered r raw, .report serial busAddr =>
    if parseTree raw = .deviceFound ∧ serial = treeSerial raw ∧ busAddr = treeBusAddr raw then some (.ready r 0x02#8) else none
  | .answered r raw, .diag k (.bytes carried) =>
    if classOf (parseTree raw) = .absorbed k ∧ carried = raw then some (.ready r 0x02#8) else none
  | .writeFailed r, .diag k (.rate baud) =>
    if k = .transportWriteError ∧ baudTable[r]? = some baud then some (.closing r) else none
  | .closing r, .close => some (.between (r + 1))
  | _, _ => none

/-- The phase after a trace, `none` where some event of it may not come. -/
def runPhases (p : Params) (ph : Phase) : List Event → Option Phase
  | [] => some ph
  | e :: es =>
    match nextPhase p ph e with
    | some ph' => runPhases p ph' es
    | none => none

/-- The phase a state between two transitions stands in. -/
def phaseOf (s : State) : Phase :=
  match s.session with
  | .idle => .between s.rateIdx.val
  | .started => if classOf s.kind = .terminal then .closing s.rateIdx.val else .answered s.rateIdx.val s.rxRaw
  | .continuing => .ready s.rateIdx.val 0x02#8
  | .ended => if s.portOpen then .closing s.rateIdx.val else .between (s.rateIdx.val + 1)

/-- The trace so far has the shape of R202 and has come as far as the control state says. -/
abbrev TraceInv (s : State) : Prop := runPhases s.params (.between 0) s.events = some (phaseOf s)

/-- The devices reported in a trace, in order (R193, R222). -/
def reported : List Event → List (Word32 × Byte)
  | [] => []
  | .report serial busAddr :: es => (serial, busAddr) :: reported es
  | .opening _ _ _ _ :: es => reported es
  | .tx _ _ :: es => reported es
  | .settle _ :: es => reported es
  | .rx _ :: es => reported es
  | .diag _ _ :: es => reported es
  | .close :: es => reported es

/-- Report rows numbered upwards from `n` (R223). -/
def rowsFrom (n : Nat) : List (Word32 × Byte) → List ReportItem
  | [] => []
  | (serial, busAddr) :: ds => .row n serial busAddr :: rowsFrom (n + 1) ds

/-- What the reporter has put out: nothing before the first device, then the header once and rows numbered from 1 (R223). -/
def expectedOutput (ds : List (Word32 × Byte)) : List ReportItem :=
  if ds = [] then [] else .header :: rowsFrom 1 ds

/-- The reporter's counter, flag and output follow from the reports made (R34, R223). -/
abbrev ReporterInv (s : State) : Prop :=
  s.reporter.seqCount = (reported s.events).length ∧
  (s.reporter.headerPrinted = true ↔ reported s.events ≠ []) ∧
  s.reporter.output = expectedOutput (reported s.events)

/-- The baud operands of a trace's opens, in order (R181). -/
def openBauds : List Event → List Nat
  | [] => []
  | .opening _ baud _ _ :: es => baud :: openBauds es
  | .report _ _ :: es => openBauds es
  | .tx _ _ :: es => openBauds es
  | .settle _ :: es => openBauds es
  | .rx _ :: es => openBauds es
  | .diag _ _ :: es => openBauds es
  | .close :: es => openBauds es

/-- Two states that agree on everything but the core's data registers, and on those only where the next transition reads them: in `Started`
the bytes, the kind and the device (R36, R37, R182). -/
abbrev SameButData (s t : State) : Prop :=
  s.session = t.session ∧ s.rateIdx = t.rateIdx ∧ s.portOpen = t.portOpen ∧ s.reporter = t.reporter ∧ s.answers = t.answers ∧
  s.events = t.events ∧ s.params = t.params ∧ s.freeCount = t.freeCount ∧
  (s.session = .started → s.kind = t.kind ∧ s.rxRaw = t.rxRaw ∧ s.serial = t.serial ∧ s.busAddr = t.busAddr)

/-- Instructions one after another, stopping where one stops: the expansion of a composite (R63, R96). -/
def execAll : List Instr → State → Answer
  | [], s => .next s
  | i :: is, s => andThen (exec i s) (execAll is)

/-- The columns of the access table (R36); `verdict` is `declared`, `computed` and `crc_ok`, `device` is `serial` and `bus_addr`. -/
inductive Reg where
  | crcAcc
  | crcBit
  | txBuf
  | rxRaw
  | frm
  | verdict
  | kind
  | device
  | session
  | portOpen
  deriving DecidableEq, Repr

/-- The registers `DEC.PARSE` may write, itself or through its steps (R36; `crc_bit`: log entry 18). -/
def parseWrites : List Reg := [.crcAcc, .crcBit, .frm, .verdict, .kind, .device]

/-- The registers an exchange may write (R36, R185). -/
def exchangeWrites : List Reg := .txBuf :: .rxRaw :: parseWrites

/-- The registers an instruction may write: the rows of the access table, and for a composite or a transition the union of its parts
(R36, R96). `crc_bit` stands in every row that sums bytes, although R36's table leaves it out of `ENC.BUILD`, `DEC.VALIDATE` and `DEC.PARSE`
(log entry 18). `rate_idx` is in no row here: only the transition `Ended -> Idle` writes it (R31). -/
def writes : Instr → List Reg
  | .startScan => .session :: .portOpen :: exchangeWrites
  | .continueScan => .session :: exchangeWrites
  | .endScan => [.crcAcc, .crcBit, .txBuf]
  | .deviceFound _ _ => .rxRaw :: parseWrites
  | .scanEnded _ => .rxRaw :: parseWrites
  | .idleFill => .rxRaw :: parseWrites
  | .crcInit => [.crcAcc]
  | .crcXor _ => [.crcAcc, .crcBit]
  | .crcShift => [.crcAcc, .crcBit]
  | .crcByte _ => [.crcAcc, .crcBit]
  | .crcSeq _ => [.crcAcc, .crcBit]
  | .encBuild _ _ _ => [.crcAcc, .crcBit, .txBuf]
  | .decDenoise => [.frm]
  | .decValidate => [.crcAcc, .crcBit, .verdict]
  | .decClassify => []
  | .decExtract => [.device]
  | .decParse => parseWrites
  | .scanExchange _ => exchangeWrites
  | .xportOpen => [.portOpen]
  | .xportWrite => []
  | .xportSettle => []
  | .xportRecv => [.rxRaw]
  | .xportClose => [.portOpen]
  | .reportDevice => []
  | .diagEmit _ => []

/-- Every register of the core outside a list is the same in two states. -/
def SameOutside (regs : List Reg) (s t : State) : Prop :=
  (.crcAcc ∉ regs → t.crcAcc = s.crcAcc) ∧ (.crcBit ∉ regs → t.crcBit = s.crcBit) ∧ (.txBuf ∉ regs → t.txBuf = s.txBuf) ∧
  (.rxRaw ∉ regs → t.rxRaw = s.rxRaw) ∧ (.frm ∉ regs → t.frm = s.frm) ∧
  (.verdict ∉ regs → t.declared = s.declared ∧ t.computed = s.computed ∧ t.crcOk = s.crcOk) ∧
  (.kind ∉ regs → t.kind = s.kind) ∧ (.device ∉ regs → t.serial = s.serial ∧ t.busAddr = s.busAddr) ∧
  (.session ∉ regs → t.session = s.session) ∧ (.portOpen ∉ regs → t.portOpen = s.portOpen) ∧ t.rateIdx = s.rateIdx

/-- How many opens of a trace were answered `Opened` (R211). -/
def openedCount : List Event → Nat
  | [] => 0
  | .opening _ _ _ .opened :: es => openedCount es + 1
  | .opening _ _ _ .openError :: es => openedCount es
  | .report _ _ :: es => openedCount es
  | .tx _ _ :: es => openedCount es
  | .settle _ :: es => openedCount es
  | .rx _ :: es => openedCount es
  | .diag _ _ :: es => openedCount es
  | .close :: es => openedCount es

/-- How many closes a trace holds (R215). -/
def closeCount : List Event → Nat
  | [] => 0
  | .close :: es => closeCount es + 1
  | .opening _ _ _ _ :: es => closeCount es
  | .report _ _ :: es => closeCount es
  | .tx _ _ :: es => closeCount es
  | .settle _ :: es => closeCount es
  | .rx _ :: es => closeCount es
  | .diag _ _ :: es => closeCount es

end Sys2Proof.Safety
end

