-- ==== Sys2Proof/Certificates/Slice0/Obligations.lean ====
section
/-! DEFINITION. The statements for the provers. Each docstring names the rule it formalises. `parseTree` and the other names of Safety are
the spec's own decision tree and trace grammar; a statement of completion has the form `exec i s = .next t` under hypotheses on the state
and the operands alone. -/

open Sys2Proof Sys2Proof.Machine Sys2Proof.Safety

/-! ### Checksum unit -/

/-- R111. -/
def Obligations.CrcInitLoadsInitialValue : Prop :=
  encode .crcInit = none ∧ ∀ s : State, exec .crcInit s = .next { s with crcAcc := 0xFFFF#16 }

/-- R112, with its corner cases and its example. -/
def Obligations.CrcXorChangesLowByteOnly : Prop :=
  (∀ b, encode (.crcXor b) = none) ∧
  (∀ (b : Byte) (s : State),
    exec (.crcXor b) s = .next { s with crcAcc := s.crcAcc ^^^ b.setWidth 16, crcBit := 0 } ∧
    (s.crcAcc ^^^ b.setWidth 16).extractLsb' 8 8 = s.crcAcc.extractLsb' 8 8) ∧
  (∀ acc : Word16, acc ^^^ (0x00#8).setWidth 16 = acc) ∧
  0xFFFF#16 ^^^ (0xFD#8).setWidth 16 = 0xFF02#16

/-- R113: the accumulator for every state; `crc_bit` counts up while it is below 8 (at 8 the model leaves it a free value, log entry 5). -/
def Obligations.CrcShiftShiftsAndFeedsBack : Prop :=
  ∀ s : State, ∃ t, exec .crcShift s = .next t ∧
    t = { s with crcAcc := t.crcAcc, crcBit := t.crcBit, freeCount := t.freeCount } ∧
    t.crcAcc = (if s.crcAcc.getLsbD 0 then (s.crcAcc >>> 1) ^^^ 0xA001#16 else s.crcAcc >>> 1) ∧
    t.crcAcc.getLsbD 15 = s.crcAcc.getLsbD 0 ∧
    (s.crcBit.val < 8 → t.crcBit.val = s.crcBit.val + 1 ∧ t.freeCount = s.freeCount)

/-- R114 (and R96): one XOR, exactly eight shifts; the example's nine values. -/
def Obligations.CrcByteIsXorThenEightShifts : Prop :=
  (∀ b, encode (.crcByte b) = none) ∧
  (∀ (b : Byte) (s : State),
    exec (.crcByte b) s = execAll (.crcXor b :: List.replicate 8 .crcShift) s ∧
    exec (.crcByte b) s = .next { s with crcAcc := crcShifts 8 (s.crcAcc ^^^ b.setWidth 16), crcBit := 8 }) ∧
  (List.range 9).map (fun n => crcShifts n (0xFFFF#16 ^^^ (0x01#8).setWidth 16)) =
    [0xFFFE#16, 0x7FFF#16, 0x9FFE#16, 0x4FFF#16, 0x87FE#16, 0x43FF#16, 0x81FE#16, 0x40FF#16, 0x807E#16]

/-- R116: `CRC.INIT`, then `CRC.BYTE` per byte in increasing order, total on every sequence, so that the result depends on the bytes
alone (R110, R118); the example, with its two intermediate values. -/
def Obligations.CrcSeqIsInitThenEachByte : Prop :=
  (∀ bs, encode (.crcSeq bs) = none) ∧
  (∀ (bs : List Byte) (s : State),
    exec (.crcSeq bs) s = execAll (.crcInit :: bs.map .crcByte) s ∧
    exec (.crcSeq bs) s = .next { s with
      crcAcc := bs.foldl (fun acc b => crcShifts 8 (acc ^^^ b.setWidth 16)) 0xFFFF#16
      crcBit := if bs = [] then s.crcBit else 8 }) ∧
  ([[0xFD#8], [0xFD#8, 0x46#8], [0xFD#8, 0x46#8, 0x01#8]].map fun bs =>
    bs.foldl (fun acc b => crcShifts 8 (acc ^^^ b.setWidth 16)) 0xFFFF#16) = [0xC17E#16, 0xD2C0#16, 0x9013#16]

/-- R115: the byte-at-a-time closed form and its four spot values. -/
def Obligations.CrcByteHasTableForm : Prop :=
  (∀ (acc : Word16) (b : Byte),
    crcByte acc b = (acc >>> 8) ^^^ crcShifts 8 ((acc.setWidth 8 ^^^ b).setWidth 16)) ∧
  crcShifts 8 0x0000#16 = 0x0000#16 ∧ crcShifts 8 0x0001#16 = 0xC0C1#16 ∧
  crcShifts 8 0x0002#16 = 0xC181#16 ∧ crcShifts 8 0x00FF#16 = 0x4040#16

/-- R121: a sequence followed by its own checksum, low byte first, has checksum zero. -/
def Obligations.CrcResidueIsZero : Prop :=
  ∀ m : List Byte, checksum (m ++ [(checksum m).extractLsb' 0 8, (checksum m).extractLsb' 8 8]) = 0#16

/-- R122: altering any one byte of a sealed sequence, checksum bytes included, makes the declared and the computed checksum differ. -/
def Obligations.OneAlteredByteIsDetected : Prop :=
  ∀ (m : List Byte) (i : Nat) (b : Byte), i < (sealFrame m).length → (sealFrame m)[i]? ≠ some b →
    let w := (sealFrame m).set i b
    le16 (byteAt w (w.length - 2)) (byteAt w (w.length - 1)) ≠ checksum (w.take (w.length - 2))

/-! ### Encoder -/

/-- R131 (and R132, R133, R135): for all operand triples, the five bytes, with the checksum recomputed and little-endian; no encoding of its own;
the example. That `crc_bit` ends at 8 is the model's choice (log entry 18). -/
def Obligations.EncBuildMakesSealedFrame : Prop :=
  (∀ a f sub, encode (.encBuild a f sub) = none) ∧
  (∀ (a f sub : Byte) (s : State), ∃ t, exec (.encBuild a f sub) s = .next t ∧
    t = { s with crcAcc := checksum [a, f, sub], crcBit := 8, txBuf := t.txBuf } ∧
    t.txBuf.toBytes = [a, f, sub, (checksum [a, f, sub]).extractLsb' 0 8, (checksum [a, f, sub]).extractLsb' 8 8] ∧
    (byteAt t.txBuf.toBytes 3).toNat + 256 * (byteAt t.txBuf.toBytes 4).toNat = (checksum [a, f, sub]).toNat) ∧
  (buildFrame 0xFD#8 0x46#8 0x01#8).toBytes = [0xFD#8, 0x46#8, 0x01#8, 0x13#8, 0x90#8]

/-- R137: what the decoder makes of a built frame in which no byte is 0xFF. -/
def Obligations.BuiltFrameParsesByHeaderAndType : Prop :=
  ∀ (a f sub : Byte) (s : State), s.rxRaw = (buildFrame a f sub).toBytes → noFill s.rxRaw = true →
    ∃ t, exec .decParse s = .next t ∧ t.crcOk = true ∧
      t.kind =
        (if a = 0xFD#8 ∧ f = 0x46#8 then
          if sub = 0x04#8 then .scanEnded else if sub = 0x03#8 then .malformedDeviceRecord else .unrecognizedFrame
         else .unrecognizedFrame)

/-! ### Decoder -/

/-- R141: every 0xFF goes, the rest keeps its order; the corner cases and the example. -/
def Obligations.DenoiseDeletesEveryFillByte : Prop :=
  encode .decDenoise = none ∧
  (∀ s : State, exec .decDenoise s = .next { s with frm := s.rxRaw.filter (fun b => b != 0xFF#8) }) ∧
  (∀ raw : List Byte,
    (denoise raw).length = raw.length - raw.count 0xFF#8 ∧ denoise (denoise raw) = denoise raw ∧
    ((∀ b ∈ raw, b = 0xFF#8) → denoise raw = []) ∧ (0xFF#8 ∉ raw → denoise raw = raw)) ∧
  denoise [0xFF#8, 0xFD#8, 0x46#8, 0x03#8, 0xFF#8] = [0xFD#8, 0x46#8, 0x03#8]

/-- R143, R144, R26: the length test writes nothing when it fails; otherwise both checksums and the flag are written
(the kind raised is returned in the model's field `result`: log entry 4). -/
def Obligations.ValidateTestsLengthThenChecksum : Prop :=
  ∀ s : State,
    (s.frm.length < 5 → exec .decValidate s = .next { s with result := .raised .malformedFrame }) ∧
    (5 ≤ s.frm.length → ∃ t, exec .decValidate s = .next t ∧
      t = { s with
        crcAcc := t.crcAcc, crcBit := t.crcBit, declared := t.declared, computed := t.computed, crcOk := t.crcOk
        result := t.result } ∧
      t.declared.toNat = (byteAt s.frm (s.frm.length - 2)).toNat + 256 * (byteAt s.frm (s.frm.length - 1)).toNat ∧
      t.computed = checksum (s.frm.take (s.frm.length - 2)) ∧ t.crcAcc = t.computed ∧
      (t.crcOk = true ↔ t.declared = t.computed) ∧
      t.result = (if t.declared = t.computed then .passed else .raised .checksumMismatch))

/-- R145, R146: header, then type; no register is written (the kind raised is returned in `result`: log entry 4). -/
def Obligations.ClassifyTestsHeaderThenType : Prop :=
  ∀ s : State, s.crcOk = true → 5 ≤ s.frm.length →
    exec .decClassify s = .next { s with
      result :=
        if byteAt s.frm 0 ≠ 0xFD#8 ∨ byteAt s.frm 1 ≠ 0x46#8 then .raised .unrecognizedFrame
        else if byteAt s.frm 2 = 0x04#8 then .raised .scanEnded
        else if byteAt s.frm 2 = 0x03#8 then .passed
        else .raised .unrecognizedFrame }

/-- R147 (R87): ten bytes give a device, any other length is a malformed record and writes no field (`result`: log entry 4). -/
def Obligations.ExtractDecodesTenByteRecord : Prop :=
  ∀ s : State, 3 ≤ s.frm.length → byteAt s.frm 2 = 0x03#8 →
    (s.frm.length ≠ 10 → exec .decExtract s = .next { s with result := .raised .malformedDeviceRecord }) ∧
    (s.frm.length = 10 → ∃ v : Word32,
      v.toNat = (byteAt s.frm 3).toNat * 2 ^ 24 + (byteAt s.frm 4).toNat * 2 ^ 16 + (byteAt s.frm 5).toNat * 2 ^ 8 +
        (byteAt s.frm 6).toNat ∧
      exec .decExtract s = .next { s with
        serial := some v, busAddr := some (byteAt s.frm 7), result := .raised .deviceFound })

/-- R26, R145, R147, R52: where `DEC.CLASSIFY` and `DEC.EXTRACT` stop: outside the preconditions the spec gives them (log entry 8). -/
def Obligations.DecoderStepsStopOutsidePreconditions : Prop :=
  ∀ s : State,
    (s.crcOk = false ∨ s.frm.length < 5 → exec .decClassify s = .fault .checksumNotGood) ∧
    (s.frm.length < 3 → exec .decExtract s = .fault .bufferOutOfBounds) ∧
    (3 ≤ s.frm.length → byteAt s.frm 2 ≠ 0x03#8 → exec .decExtract s = .fault .notDeviceRecord)

/-- R148, R149, R30, R152: `DEC.PARSE` completes in every state with the decision tree's kind, which depends on the bytes alone; the device
fields hold a value with `DeviceFound` only; `rx_raw` and everything outside the decoder and the checksum unit stays. The model's choices here:
the field `result` (log entry 4), `frm` kept on an empty receive (log entry 13). -/
def Obligations.ParseFollowsDecisionTree : Prop :=
  ∀ s : State, ∃ t, exec .decParse s = .next t ∧
    t.kind = parseTree s.rxRaw ∧ t.result = .raised t.kind ∧
    t.frm = (if s.rxRaw = [] then s.frm else s.rxRaw.filter (fun b => b != 0xFF#8)) ∧
    t.serial = (if t.kind = .deviceFound then some (treeSerial s.rxRaw) else none) ∧
    t.busAddr = (if t.kind = .deviceFound then some (treeBusAddr s.rxRaw) else none) ∧
    t = { s with
      crcAcc := t.crcAcc, crcBit := t.crcBit, frm := t.frm, declared := t.declared, computed := t.computed
      crcOk := t.crcOk, kind := t.kind, serial := t.serial, busAddr := t.busAddr, result := t.result }

/-! ### Encodings -/

/-- R82, R84, R85, R91: frames written out from the spec's tables decode to the rows they stand for. -/
def Obligations.WrittenFramesDecode : Prop :=
  decode .outbound [0xFD#8, 0x46#8, 0x01#8, 0x13#8, 0x90#8] = .ok .startScan ∧
  decode .outbound [0xFD#8, 0x46#8, 0x02#8, 0x53#8, 0x91#8] = .ok .continueScan ∧
  decode .outbound [0xFD#8, 0x46#8, 0x04#8, 0xD3#8, 0x93#8] = .ok .endScan ∧
  decode .inbound [0xFD#8, 0x46#8, 0x04#8, 0xD3#8, 0x93#8] = .ok (.scanEnded []) ∧
  decode .inbound [0xFD#8, 0x46#8, 0x03#8, 0x00#8, 0x00#8, 0x01#8, 0x2C#8, 0x05#8, 0x24#8, 0x22#8] = .ok (.deviceFound 300#32 5#8) ∧
  decode .inbound [0xFF#8] = .ok .idleFill

/-- R80 to R86, R91: decoding the encoding of a well-formed row gives it back, for every row and every operand. -/
def Obligations.DecodeInvertsEncode : Prop :=
  ∀ (i : Instr) (d : Direction) (bs : List Byte), i.wellFormed = true → i.direction = some d → encode i = some bs →
    decode d bs = .ok i

/-- R80 to R86, R91: what decodes is well formed, and its encoding is the very bytes decoded, so no bit of a frame is dropped. -/
def Obligations.EncodeInvertsDecode : Prop :=
  ∀ (d : Direction) (bs : List Byte) (i : Instr), decode d bs = .ok i →
    encode i = some bs ∧ i.direction = some d ∧ i.wellFormed = true

/-- R83, R90, R93: the machine's parser and the frame formats agree on which receives are devices and which end the scan. -/
def Obligations.ParserAgreesWithFormats : Prop :=
  ∀ s : State, ∃ t, exec .decParse s = .next t ∧
    (∀ n a, t.kind = .deviceFound ∧ t.serial = some n ∧ t.busAddr = some a ↔
      decode .inbound (s.rxRaw.filter (fun b => b != 0xFF#8)) = .ok (.deviceFound n a)) ∧
    (t.kind = .scanEnded ↔ ∃ p, decode .inbound (s.rxRaw.filter (fun b => b != 0xFF#8)) = .ok (.scanEnded p))

/-! ### Inbound rows -/

/-- R83, R90, R93: every inbound row, well formed or not and whatever its length, is what one receive returns, cut to `RX_MAX`, and is then
parsed (log entry 6). -/
def Obligations.InboundRowsAreReceivedAndParsed : Prop :=
  ∀ (i : Instr) (bs : List Byte) (s : State), i.direction = some .inbound → encode i = some bs → s.portOpen = true →
    exec i s = exec .decParse { s with
      rxRaw := bs.take s.params.rxMax, events := s.events ++ [.rx (bs.take s.params.rxMax)] } ∧
    ∃ t, exec i s = .next t ∧ t.kind = parseTree (bs.take s.params.rxMax) ∧ SameOutside (writes i) s t

/-- R84, R147, R237: a device's frame without a byte 0xFF is received whole and found (executing the row is a receive and a parse: log
entry 6). -/
def Obligations.DeviceFrameIsFound : Prop :=
  ∀ (n : Word32) (a : Byte) (s : State), s.portOpen = true → 10 ≤ s.params.rxMax → (Instr.deviceFound n a).wellFormed = true →
    ∃ t, exec (.deviceFound n a) s = .next t ∧
      t.kind = .deviceFound ∧ t.serial = some n ∧ t.busAddr = some a ∧ t.crcOk = true ∧
      encode (.deviceFound n a) = some t.rxRaw ∧ t.frm = t.rxRaw ∧ t.events = s.events ++ [.rx t.rxRaw] ∧
      SameOutside (writes (.deviceFound n a)) s t

/-- R271, R91: a genuine device frame that holds a byte 0xFF is never found, and ends no session (log entry 6). -/
def Obligations.FillByteHidesDevice : Prop :=
  ∀ (n : Word32) (a : Byte) (s : State), s.portOpen = true → 10 ≤ s.params.rxMax → (Instr.deviceFound n a).wellFormed = false →
    ∃ t, exec (.deviceFound n a) s = .next t ∧ t.serial = none ∧ t.busAddr = none ∧
      (t.kind = .malformedFrame ∨ t.kind = .checksumMismatch ∨ t.kind = .malformedDeviceRecord)

/-- R85, R146, R236: a scan-ended frame that fits a receive ends the scan whatever its payload (log entry 6). -/
def Obligations.EndedFrameEndsScan : Prop :=
  ∀ (p : List Byte) (s : State), s.portOpen = true → p.length + 5 ≤ s.params.rxMax → (Instr.scanEnded p).wellFormed = true →
    ∃ t, exec (.scanEnded p) s = .next t ∧ t.kind = .scanEnded ∧ t.serial = none ∧ t.busAddr = none ∧ t.crcOk = true ∧
      encode (.scanEnded p) = some t.rxRaw ∧ t.frm = t.rxRaw ∧ t.events = s.events ++ [.rx t.rxRaw] ∧
      SameOutside (writes (.scanEnded p)) s t

/-- R91, R141 to R143: a lone fill byte leaves an empty frame and is malformed, not silence (executing the row is a receive and a parse: log
entry 6). -/
def Obligations.LoneFillByteIsMalformed : Prop :=
  ∀ s : State, s.portOpen = true → 1 ≤ s.params.rxMax →
    exec .idleFill s = .next { s with
      rxRaw := [0xFF#8], frm := [], kind := .malformedFrame, serial := none, busAddr := none
      events := s.events ++ [.rx [0xFF#8]], result := .raised .malformedFrame }

/-! ### Transport, reports, diagnostics -/

/-- R211, R28: at every rate index one event with the three operands and the answer drawn, its rate one of the eight and `BAUD[rate_idx]` where
the table has that entry; the handle is held on `Opened` only. The model's choices: the rate at index 8 is a free value (log entry 17); a pending
answer is the one taken, and an answer drawn is a free value counted by `freeCount` (log entry 3). -/
def Obligations.OpenAsksAtTableRate : Prop :=
  ∀ s : State, s.portOpen = false →
    ∃ baud r t, exec .xportOpen s = .next t ∧
      baud ∈ baudTable ∧ (∀ b, baudTable[s.rateIdx.val]? = some b → baud = b) ∧
      t = { s with
        portOpen := decide (r = .opened), answers := t.answers, freeCount := t.freeCount
        events := s.events ++ [.opening s.params.portId baud s.params.readTimeout r]
        result := if r = .opened then .opened else .openError } ∧
      (let drawn := s.freeCount + if s.rateIdx.val = 8 then 1 else 0
       (∀ x rest, s.answers.opens = x :: rest →
         r = x ∧ t.answers = { s.answers with opens := rest } ∧ t.freeCount = drawn) ∧
       (s.answers.opens = [] → t.answers = s.answers ∧ t.freeCount = drawn + 1))

/-- R212, R59: one event with exactly the five bytes of `tx_buf`, index 0 first, and the answer drawn; no register changes.
That a pending answer is the one taken, and that an answer drawn is a free value counted by `freeCount`, is the model's choice (log entry 3). -/
def Obligations.WriteHandsOverFiveBytes : Prop :=
  ∀ s : State, s.portOpen = true →
    ∃ w t, exec .xportWrite s = .next t ∧
      t = { s with
        answers := t.answers, freeCount := t.freeCount
        events := s.events ++ [.tx [s.txBuf.address, s.txBuf.functionCode, s.txBuf.subcommand, s.txBuf.crcLo, s.txBuf.crcHi] w]
        result := if w = .written then .written else .writeError } ∧
      (∀ x rest, s.answers.writes = x :: rest →
        w = x ∧ t.answers = { s.answers with writes := rest } ∧ t.freeCount = s.freeCount) ∧
      (s.answers.writes = [] → t.answers = s.answers ∧ t.freeCount = s.freeCount + 1)

/-- R213: no register changes; the wait is recorded. -/
def Obligations.SettleChangesNoRegister : Prop :=
  ∀ s : State, exec .xportSettle s = .next { s with events := s.events ++ [.settle s.params.settleInterval] }

/-- R214, R24: at most `RX_MAX` bytes, recorded and in `rx_raw`; a pending answer is taken, cut to the bound, and an answer drawn is a
free value counted by `freeCount` (log entry 3). -/
def Obligations.ReceiveIsBoundedByRxMax : Prop :=
  ∀ s : State, s.portOpen = true →
    ∃ t, exec .xportRecv s = .next t ∧ t.rxRaw.length ≤ s.params.rxMax ∧
      t = { s with
        rxRaw := t.rxRaw, answers := t.answers, freeCount := t.freeCount, events := s.events ++ [.rx t.rxRaw] } ∧
      (∀ raw rest, s.answers.receives = raw :: rest →
        t.rxRaw = raw.take s.params.rxMax ∧ t.answers = { s.answers with receives := rest } ∧ t.freeCount = s.freeCount) ∧
      (s.answers.receives = [] → t.answers = s.answers ∧ t.freeCount = s.freeCount + 1)

/-- R215: the handle is released, one event. -/
def Obligations.CloseReleasesHandle : Prop :=
  ∀ s : State, s.portOpen = true → exec .xportClose s = .next { s with portOpen := false, events := s.events ++ [.close] }

/-- R185, R186, R192, R211, R212, R214, R215: without a handle nothing is written, received or closed; with one nothing is opened; a transition
is taken under its guard only (that a failed guard is a fault: log entry 8). -/
def Obligations.GuardsStopOperations : Prop :=
  ∀ s : State,
    (s.portOpen = true → exec .xportOpen s = .fault .portAlreadyOpen) ∧
    (s.portOpen = false →
      exec .xportWrite s = .fault .portNotOpen ∧ exec .xportRecv s = .fault .portNotOpen ∧
      exec .xportClose s = .fault .portNotOpen ∧ exec .idleFill s = .fault .portNotOpen ∧
      (∀ sub, exec (.scanExchange sub) s = .fault .portNotOpen) ∧
      (∀ n a, exec (.deviceFound n a) s = .fault .portNotOpen) ∧ (∀ p, exec (.scanEnded p) s = .fault .portNotOpen)) ∧
    (s.session ≠ .idle ∨ s.rateIdx.val = 8 → exec .startScan s = .fault .transitionNotEnabled) ∧
    (s.session ≠ .continuing → exec .continueScan s = .fault .transitionNotEnabled)

/-- R222, R223, R36: one report with the two fields; the reporter counts up by one, prints the header before the first row only. That `serial`
and `bus_addr` keep their values after the report, R36 giving it no write although R222 says that the core does not keep the device, is the
model's reading (log entry 13); so is the fault without a device (R30, log entry 8). -/
def Obligations.ReportHandsDeviceOver : Prop :=
  (∀ (s : State) (n : Word32) (a : Byte), s.kind = .deviceFound → s.serial = some n → s.busAddr = some a →
    exec .reportDevice s = .next { s with
      events := s.events ++ [.report n a]
      reporter :=
        { seqCount := s.reporter.seqCount + 1
          headerPrinted := true
          output := s.reporter.output ++ (if s.reporter.headerPrinted then [] else [.header]) ++
            [.row (s.reporter.seqCount + 1) n a] } }) ∧
  (∀ s : State, s.kind ≠ .deviceFound ∨ s.serial = none ∨ s.busAddr = none → exec .reportDevice s = .fault .noDevice)

/-- R225: a decoder kind carries the undenoised bytes, a transport kind `BAUD[rate_idx]`; it completes in every state
(at index 8 the table has no entry, and the rate is a free value among the eight: log entry 17). -/
def Obligations.DiagCarriesBytesOrRate : Prop :=
  ∀ (k : DiagKind) (s : State),
    (k = .malformedFrame ∨ k = .checksumMismatch ∨ k = .unrecognizedFrame ∨ k = .malformedDeviceRecord →
      exec (.diagEmit k) s = .next { s with events := s.events ++ [.diag k (.bytes s.rxRaw)] }) ∧
    (k = .transportOpenError ∨ k = .transportWriteError →
      (∀ baud, baudTable[s.rateIdx.val]? = some baud →
        exec (.diagEmit k) s = .next { s with events := s.events ++ [.diag k (.rate baud)] }) ∧
      (s.rateIdx.val = 8 → ∃ baud ∈ baudTable,
        exec (.diagEmit k) s = .next { s with
          events := s.events ++ [.diag k (.rate baud)], freeCount := s.freeCount + 1 }))

/-! ### The exchange and the transitions -/

/-- R185, R96: the exchange is its parts in order, cut short by a failed write. -/
def Obligations.ExchangeRunsPartsInOrder : Prop :=
  ∀ (sub : Byte) (s : State), s.portOpen = true →
    exec (.scanExchange sub) s =
      andThen (execAll [.encBuild 0xFD#8 0x46#8 sub, .xportWrite] s) fun w =>
        if w.result = .writeError then .next { w with result := .transportWriteError }
        else execAll [.xportSettle, .xportRecv, .decParse] w

/-- R185: the exchange completes while a handle is held: one command, and unless the write failed one settle, one receive and its parse. -/
def Obligations.ExchangeCompletesWithOneCommand : Prop :=
  ∀ (sub : Byte) (s : State), s.portOpen = true → ∃ t, exec (.scanExchange sub) s = .next t ∧
    t.txBuf.toBytes = commandFrame sub ∧ SameOutside (writes (.scanExchange sub)) s t ∧ t.reporter = s.reporter ∧
    ((drawWrite s).1 = .writeError →
      t.events = s.events ++ [.tx (commandFrame sub) .writeError] ∧ t.result = .transportWriteError ∧
      t.rxRaw = s.rxRaw ∧ t.frm = s.frm ∧ t.kind = s.kind) ∧
    ((drawWrite s).1 = .written →
      t.events = s.events ++ [.tx (commandFrame sub) .written, .settle s.params.settleInterval, .rx t.rxRaw] ∧
      t.result = .raised t.kind ∧ t.kind = parseTree t.rxRaw ∧ t.rxRaw.length ≤ s.params.rxMax)

/-- R90, R93, R185: an exchange that receives the bytes of an inbound row runs that row, in the state after the settle wait. Pending answers
are log entry 3, executing an inbound row log entry 6, `crc_bit` at 8 after the build log entry 18. -/
def Obligations.ExchangeRunsTheFrameReceived : Prop :=
  ∀ (sub : Byte) (i : Instr) (bs : List Byte) (ws : List WriteResult) (rest : List (List Byte)) (s : State),
    s.portOpen = true → decode .inbound bs = .ok i → s.answers.writes = .written :: ws → s.answers.receives = bs :: rest →
    exec (.scanExchange sub) s = exec i { s with
      crcAcc := checksum [0xFD#8, 0x46#8, sub], crcBit := 8, txBuf := buildFrame 0xFD#8 0x46#8 sub
      answers := { s.answers with writes := ws, receives := rest }
      events := s.events ++ [.tx (commandFrame sub) .written, .settle s.params.settleInterval]
      result := .written }

/-- R186, R187, R188: the start of a session at each of the eight rates, by the environment's two answers
(how they are drawn: log entry 3). -/
def Obligations.StartScanOpensAndExchanges : Prop :=
  ∀ (s : State) (baud : Nat), s.session = .idle → baudTable[s.rateIdx.val]? = some baud → s.portOpen = false →
    ∃ t, exec .startScan s = .next t ∧ t.rateIdx = s.rateIdx ∧ t.params = s.params ∧ t.reporter = s.reporter ∧
      (let asked := fun r => Event.opening s.params.portId baud s.params.readTimeout r
       ((drawOpen s).1 = .openError →
          t = { (drawOpen s).2 with
            session := .ended, result := .openError
            events := s.events ++ [asked .openError, .diag .transportOpenError (.rate baud)] }) ∧
       ((drawOpen s).1 = .opened → (drawWrite (drawOpen s).2).1 = .writeError →
          t.session = .ended ∧ t.portOpen = true ∧ t.kind = s.kind ∧ t.rxRaw = s.rxRaw ∧
          t.events = s.events ++
            [asked .opened, .tx (commandFrame 0x01#8) .writeError, .diag .transportWriteError (.rate baud)]) ∧
       ((drawOpen s).1 = .opened → (drawWrite (drawOpen s).2).1 = .written →
          t.session = .started ∧ t.portOpen = true ∧ t.kind = parseTree t.rxRaw ∧
          t.events = s.events ++
            [asked .opened, .tx (commandFrame 0x01#8) .written, .settle s.params.settleInterval, .rx t.rxRaw]))

/-- R192 to R195, R188: one continue-scan exchange and the reaction to it, at every rate index (how the answers are drawn: log entry 3; at
index 8, which no run reaches in `Continuing`, the diagnostic's rate is a free value among the eight: log entry 17). -/
def Obligations.ContinueScanExchangesAndReacts : Prop :=
  ∀ s : State, s.session = .continuing → s.portOpen = true →
    ∃ baud t, exec .continueScan s = .next t ∧ baud ∈ baudTable ∧ (∀ b, baudTable[s.rateIdx.val]? = some b → baud = b) ∧
      t.rateIdx = s.rateIdx ∧ t.params = s.params ∧ t.portOpen = true ∧
      ((drawWrite s).1 = .writeError →
        t.session = .ended ∧ t.reporter = s.reporter ∧ t.kind = s.kind ∧
        t.events = s.events ++ [.tx (commandFrame 0x02#8) .writeError, .diag .transportWriteError (.rate baud)]) ∧
      ((drawWrite s).1 = .written →
        t.kind = parseTree t.rxRaw ∧
        t.session = (if classOf t.kind = .terminal then .ended else .continuing) ∧
        t.reporter = (if t.kind = .deviceFound then s.reporter.accept (treeSerial t.rxRaw) (treeBusAddr t.rxRaw) else s.reporter) ∧
        t.events = s.events ++
          [.tx (commandFrame 0x02#8) .written, .settle s.params.settleInterval, .rx t.rxRaw] ++
          (match classOf t.kind with
           | .terminal => []
           | .found => [.report (treeSerial t.rxRaw) (treeBusAddr t.rxRaw)]
           | .absorbed k => [.diag k (.bytes t.rxRaw)]))

/-- R183, R82, R133: `END_SCAN` is built and not sent (that executing the row builds its frame is log entry 7,
that `crc_bit` ends at 8 log entry 18). -/
def Obligations.EndScanIsBuiltNotSent : Prop :=
  ∀ s : State, exec .endScan s = .next { s with
    crcAcc := 0x93D3#16, crcBit := 8
    txBuf := { address := 0xFD#8, functionCode := 0x46#8, subcommand := 0x04#8, crcLo := 0xD3#8, crcHi := 0x93#8 } }

/-! ### The step -/

/-- R31, R94, R186, R189 to R192, R198, R199: the sequencer's state selects the operation, and the step runs it; in `Started` and `Ended` the
change of control state follows the operation. That the missing step at the end of the sweep is the fault `sweepDone` is log entry 9. -/
def Obligations.StepRunsSelectedOperation : Prop :=
  ∀ s : State,
    (∀ i, s.session = .idle ∨ s.session = .continuing → selected s = some i → step s = exec i s) ∧
    (∀ i, s.session = .started → selected s = some i →
      step s = andThen (exec i s) fun t => .next { t with session := .continuing }) ∧
    (∀ i, s.session = .ended → selected s = some i →
      step s = andThen (exec i s) fun t => .next { t with session := .idle, rateIdx := nextRate t.rateIdx }) ∧
    (s.session = .started → selected s = none → step s = .next { s with session := .ended }) ∧
    (s.session = .ended → selected s = none → step s = .next { s with session := .idle, rateIdx := nextRate s.rateIdx }) ∧
    (s.session = .idle → selected s = none → step s = .fault .sweepDone)

/-- R189, R190, R191, R171: the reaction to the start exchange, for each of the seven kinds. That `serial` and `bus_addr` keep their values after
the report (R36, against the wording of R222) is the model's reading (log entry 13). -/
def Obligations.StartedReactsToKind : Prop :=
  ∀ s : State, s.session = .started →
    (s.kind = .scanComplete ∨ s.kind = .scanEnded → step s = .next { s with session := .ended }) ∧
    (∀ n a, s.kind = .deviceFound → s.serial = some n → s.busAddr = some a →
      step s = .next { s with
        session := .continuing, events := s.events ++ [.report n a], reporter := s.reporter.accept n a }) ∧
    (s.kind = .malformedFrame →
      step s = .next { s with session := .continuing, events := s.events ++ [.diag .malformedFrame (.bytes s.rxRaw)] }) ∧
    (s.kind = .checksumMismatch →
      step s = .next { s with session := .continuing, events := s.events ++ [.diag .checksumMismatch (.bytes s.rxRaw)] }) ∧
    (s.kind = .unrecognizedFrame →
      step s = .next { s with session := .continuing, events := s.events ++ [.diag .unrecognizedFrame (.bytes s.rxRaw)] }) ∧
    (s.kind = .malformedDeviceRecord →
      step s = .next { s with session := .continuing, events := s.events ++ [.diag .malformedDeviceRecord (.bytes s.rxRaw)] })

/-- R198: the end of a session closes the transport if it is open and advances the rate by one. -/
def Obligations.EndedClosesAndAdvances : Prop :=
  ∀ s : State, s.session = .ended → s.rateIdx.val < 8 → ∃ t, step s = .next t ∧ t.rateIdx.val = s.rateIdx.val + 1 ∧
    t = { s with
      session := .idle, portOpen := false, rateIdx := t.rateIdx
      events := if s.portOpen then s.events ++ [.close] else s.events }

/-- R199, R200: under the invariants the end of the sweep is the only state without an enabled step, whatever the environment answers
(the missing step is a named fault: log entry 9). -/
def Obligations.OnlySweepDoneHasNoStep : Prop :=
  ∀ s : State, ControlInv s → DataInv s →
    (SweepDone s → step s = .fault .sweepDone) ∧ (¬ SweepDone s → ∃ t, step s = .next t)

/-- R31, R198: the rate index changes in the transition out of `Ended` only, by one, and stops at 8. -/
def Obligations.RateChangesOnlyAtSessionEnd : Prop :=
  ∀ s t : State, step s = .next t →
    t.rateIdx.val = if s.session = .ended then min (s.rateIdx.val + 1) 8 else s.rateIdx.val

/-! ### Whole-machine rules -/

/-- R36, R29, R39, R63: every instruction writes only the registers of its row in the access table; none writes a host parameter, none drops,
reorders or alters an event already emitted, and only those that report change the reporter. `crc_bit` counts as written by every
operation that sums bytes, where R36's table leaves the cell empty (log entry 18); that a parse without a device clears `serial` and `bus_addr`
is log entry 13. -/
def Obligations.InstructionsWriteOnlyTheirRegisters : Prop :=
  ∀ (i : Instr) (s t : State), exec i s = .next t →
    SameOutside (writes i) s t ∧ t.params = s.params ∧ (∃ es, t.events = s.events ++ es) ∧
    (i ≠ .reportDevice → i ≠ .continueScan → t.reporter = s.reporter) ∧ s.freeCount ≤ t.freeCount

/-- 95 section 2.4, R31, R32: `port_open` goes with `state`, and `rate_idx = 8` with `Idle`; every step keeps it. -/
def Obligations.StepKeepsControlInv : Prop :=
  ∀ s t : State, ControlInv s → step s = .next t → ControlInv t

/-- R24, R25, R26, R30, R91: every step keeps the capacities, the absence of 0xFF from everything decoded, the meaning of `crc_ok`, and the
validity of the device fields. That `serial` and `bus_addr` hold a value after the report too, while `kind` is `DeviceFound` (where R222 and R30
say that the device is not retained), and that the verdict registers stay on a short frame, is the model's reading (log entry 13). -/
def Obligations.StepKeepsDataInv : Prop :=
  ∀ s t : State, DataInv s → step s = .next t → DataInv t

/-- R202, R64, R66, R67, R181, R183, R215: every step keeps the event trace in the shape the spec gives a run. -/
def Obligations.StepKeepsTraceShape : Prop :=
  ∀ s t : State, ControlInv s → StartedInv s → TraceInv s → step s = .next t → StartedInv t ∧ TraceInv t

/-- R223, R34: every step keeps the reporter's counter, flag and rows in agreement with the reports made. -/
def Obligations.StepKeepsReporterInv : Prop :=
  ∀ s t : State, ReporterInv s → step s = .next t → ReporterInv t

/-- R37, R260: reset meets every invariant, with the model's own values in the registers the spec leaves unspecified (log entry 1). -/
def Obligations.ResetMeetsInvariants : Prop :=
  ControlInv State.reset ∧ DataInv State.reset ∧ StartedInv State.reset ∧ TraceInv State.reset ∧ ReporterInv State.reset

/-- R181: at the end of the sweep every rate has been tried exactly once, in descending order, whatever happened at each. -/
def Obligations.SweepTriesEveryRateOnce : Prop :=
  ∀ s : State, TraceInv s → SweepDone s →
    openBauds s.events = [115200, 57600, 38400, 19200, 9600, 4800, 2400, 1200]

/-- R67, R215, D21: between sessions every open that succeeded has been closed. -/
def Obligations.EveryOpenedHandleIsClosed : Prop :=
  ∀ s : State, TraceInv s → s.session = .idle → closeCount s.events = openedCount s.events

/-- R183, R134, R82: the only frames on the wire are start-scan and continue-scan; end-scan is never sent. -/
def Obligations.OnlyStartAndContinueAreSent : Prop :=
  ∀ s : State, TraceInv s → ∀ bytes w, .tx bytes w ∈ s.events →
    bytes = [0xFD#8, 0x46#8, 0x01#8, 0x13#8, 0x90#8] ∨ bytes = [0xFD#8, 0x46#8, 0x02#8, 0x53#8, 0x91#8]

/-- R37, R182: no step's control, events or environment depends on a data register that the spec leaves unspecified, so none depends on the
values the model gives them at reset (log entry 1). -/
def Obligations.UnspecifiedRegistersDoNotMatter : Prop :=
  ∀ s t : State, SameButData s t →
    (∀ s', step s = .next s' → ∃ t', step t = .next t' ∧ SameButData s' t') ∧
    (∀ r, step s = .fault r → step t = .fault r)

/-- R203, R275: a session goes on for as many exchanges as the environment answers without a terminal result (pending answers:
log entry 3). -/
def Obligations.SessionIsUnbounded : Prop :=
  ∀ (n : Nat) (s : State) (raws rest : List (List Byte)) (ws : List WriteResult),
    s.session = .continuing → s.portOpen = true → raws.length = n →
    (∀ raw ∈ raws, raw.length ≤ s.params.rxMax ∧ classOf (parseTree raw) ≠ .terminal) →
    s.answers.writes = List.replicate n .written ++ ws → s.answers.receives = raws ++ rest →
    ∃ t, core.run n s = .next t ∧ t.session = .continuing ∧ t.rateIdx = s.rateIdx ∧ t.portOpen = true

/-! ### Reset and host -/

/-- R37, R260: the values the spec gives for reset. -/
def Obligations.ResetValuesOfTheSpec : Prop :=
  State.reset.session = .idle ∧ State.reset.rateIdx = 0 ∧ State.reset.portOpen = false ∧
  State.reset.serial = none ∧ State.reset.busAddr = none ∧
  State.reset.reporter.seqCount = 0 ∧ State.reset.reporter.headerPrinted = false ∧ State.reset.events = []

/-- R261: the first step after reset is the start-scan transition, whose first event is an open at 115200 baud. -/
def Obligations.FirstEventIsOpenAt115200 : Prop :=
  step State.reset = exec .startScan State.reset ∧
    ∃ t r, step State.reset = .next t ∧
      t.events.head? = some (.opening State.reset.params.portId 115200 State.reset.params.readTimeout r)

/-- R260, R261, R262, D26: the host's reset between sessions gives the reset state with the host's parameters kept and the answers still to
come (log entry 15); while a transport is open it is refused. -/
def Obligations.HostResetRestartsOrIsRefused : Prop :=
  ∀ s : State,
    (s.portOpen = true → hostReset s = .refused .resetWhilePortOpen) ∧
    (s.portOpen = false → ∃ t, hostReset s = .next t ∧ t.session = .idle ∧ t.rateIdx = 0 ∧ t.portOpen = false ∧
      t.serial = none ∧ t.busAddr = none ∧ t.reporter.seqCount = 0 ∧ t.reporter.headerPrinted = false ∧
      t.events = [] ∧ t.params = s.params)

/-- R8 to R11, R27, R28: the hardwired constants and the baud table. -/
def Obligations.ConstantsAreHardwired : Prop :=
  crcInitValue = 0xFFFF#16 ∧ crcPoly = 0xA001#16 ∧ addrBroadcast = 0xFD#8 ∧ funcExt = 0x46#8 ∧ subStart = 0x01#8 ∧
  subContinue = 0x02#8 ∧ subResponse = 0x03#8 ∧ subEnd = 0x04#8 ∧ idleFillByte = 0xFF#8 ∧
  cmdLen = 5 ∧ minFrameLen = 5 ∧ hdrLen = 3 ∧ crcLen = 2 ∧ serialLen = 4 ∧ busAddrLen = 1 ∧
  devFoundBodyLen = 8 ∧ devFoundLen = 10 ∧ numRates = 8 ∧
  baudTable = [115200, 57600, 38400, 19200, 9600, 4800, 2400, 1200]

/-- R14, R52: a buffer access inside the current length is done, and a byte reads back as last written; outside it is a fault.
R52 advises the fault for a read; for a write it is the model's choice (log entry 8). No operation makes a partial write: the units write
their buffers whole. -/
def Obligations.BufferReadsBackWhatWasWritten : Prop :=
  ∀ (buf v : List Byte) (i : Nat) (k : List Byte → Answer),
    (i + v.length ≤ buf.length → ∃ out, memWrite buf i v k = k out ∧ out.length = buf.length ∧
      memRead out i v.length k = k v ∧
      ∀ j, j < i ∨ i + v.length ≤ j → out[j]? = buf[j]?) ∧
    (buf.length < i + v.length → memWrite buf i v k = .fault .bufferOutOfBounds ∧
      memRead buf i v.length k = .fault .bufferOutOfBounds)
end

