-- ==== Sys2Proof/Laws/Bytes.lean ====
section
/-! SUPPORT. What the byte helpers do: denoising, the bound on a receive, byte order, and the checksum over a sequence. -/

namespace Sys2Proof.Machine

/-- Denoising is a filter (R141). -/
theorem denoise_eq_filter (bs : List Byte) : denoise bs = bs.filter (fun b => b != idleFillByte) := by
  induction bs with
  | nil => rfl
  | cons b bs ih => by_cases h : b = idleFillByte <;> simp [denoise, h, ih]

/-- No fill byte survives denoising (R91). -/
theorem not_fill_of_mem_denoise {b : Byte} {bs : List Byte} (h : b ∈ denoise bs) : b ≠ idleFillByte := by
  rw [denoise_eq_filter, List.mem_filter] at h
  exact bne_iff_ne.mp h.2

/-- Denoising never lengthens (R25, D24). -/
theorem denoise_length_le (bs : List Byte) : (denoise bs).length ≤ bs.length := by
  rw [denoise_eq_filter]; exact List.length_filter_le _ _

/-- A sequence without fill bytes passes denoising unchanged (R141). -/
theorem denoise_of_noFill {bs : List Byte} (h : noFill bs = true) : denoise bs = bs := by
  rw [denoise_eq_filter]
  exact List.filter_eq_self.mpr (by simpa [noFill] using h)

/-- What denoising leaves holds no fill byte (R91). -/
theorem noFill_denoise (bs : List Byte) : noFill (denoise bs) = true := by
  simpa [noFill] using fun b (h : b ∈ denoise bs) => not_fill_of_mem_denoise h

/-- A receive never exceeds its bound (R214). -/
theorem takeAtMost_length_le {α : Type} (l : List α) (n : Nat) : (takeAtMost l n).length ≤ n := by
  induction l generalizing n with
  | nil => simp [takeAtMost]
  | cons a l ih => cases n with
    | zero => simp [takeAtMost]
    | succ n => simpa [takeAtMost] using ih n

/-- An answer within the bound arrives whole (R214). -/
theorem takeAtMost_of_le {α : Type} {l : List α} {n : Nat} (h : l.length ≤ n) : takeAtMost l n = l := by
  induction l generalizing n with
  | nil => rfl
  | cons a l ih => cases n with
    | zero => simp at h
    | succ n => simp [takeAtMost, ih (by simpa using h)]

/-- The two checksum bytes read back give the checksum (R53, R86). -/
@[simp] theorem le16_crcBytes (c : Word16) : le16 (crcLo c) (crcHi c) = c := by
  unfold le16 crcLo crcHi
  ext i hi
  simp only [BitVec.getElem_append, BitVec.getElem_extractLsb']
  split
  · rw [Nat.zero_add]; exact BitVec.getLsbD_eq_getElem (by omega)
  · rw [show 8 + (i - 8) = i by omega]; exact BitVec.getLsbD_eq_getElem (by omega)

/-- Taking a value apart gives the two bytes it was put together from (R53, R86). -/
@[simp] theorem crcLo_le16 (lo hi : Byte) : crcLo (le16 lo hi) = lo := by
  unfold le16 crcLo
  ext i h
  simp only [BitVec.getElem_extractLsb', Nat.zero_add, BitVec.getLsbD_append]
  simp [h]

@[simp] theorem crcHi_le16 (lo hi : Byte) : crcHi (le16 lo hi) = hi := by
  unfold le16 crcHi
  ext i h
  simp only [BitVec.getElem_extractLsb', BitVec.getLsbD_append]
  simp [h]

/-- The little-endian value as a number (R86). -/
theorem le16_toNat (lo hi : Byte) : (le16 lo hi).toNat = hi.toNat * 256 + lo.toNat := by
  unfold le16
  rw [BitVec.toNat_append, ← Nat.shiftLeft_add_eq_or_of_lt lo.isLt, Nat.shiftLeft_eq]

/-- The big-endian value as a number (R87). -/
theorem be32_toNat (b3 b2 b1 b0 : Byte) :
    (be32 b3 b2 b1 b0).toNat = b3.toNat * 2 ^ 24 + b2.toNat * 2 ^ 16 + b1.toNat * 2 ^ 8 + b0.toNat := by
  unfold be32
  rw [BitVec.toNat_append, BitVec.toNat_append, BitVec.toNat_append,
    ← Nat.shiftLeft_add_eq_or_of_lt b0.isLt, ← Nat.shiftLeft_add_eq_or_of_lt b1.isLt,
    ← Nat.shiftLeft_add_eq_or_of_lt b2.isLt]
  simp only [Nat.shiftLeft_eq]
  omega

/-- The checksum run over two sequences in turn (R120). -/
theorem crcRun_append (acc : Word16) (xs ys : List Byte) : crcRun acc (xs ++ ys) = crcRun (crcRun acc xs) ys := by
  induction xs generalizing acc with
  | nil => rfl
  | cons x xs ih => exact ih (crcByte acc x)

/-- A shift leaves the empty accumulator empty (R113). -/
@[simp] theorem crcShift_zero : crcShift 0#16 = 0#16 := by decide

/-- The empty sequence leaves the initial value (R117). -/
@[simp] theorem checksum_nil : checksum [] = crcInitValue := rfl

/-- A frame and its parts (R80). -/
@[simp] theorem sealFrame_length (body : List Byte) : (sealFrame body).length = body.length + 2 := by
  simp [sealFrame, crcBytes]

@[simp] theorem serialBytes_length (v : Word32) : (serialBytes v).length = 4 := rfl

@[simp] theorem deviceBody_length (v : Word32) (a : Byte) : (deviceBody v a).length = 8 := rfl

/-- A serial number read back from its four bytes (R54, R87). -/
@[simp] theorem be32_serialBytes (v : Word32) :
    be32 (v.extractLsb' 24 8) (v.extractLsb' 16 8) (v.extractLsb' 8 8) (v.extractLsb' 0 8) = v := by
  apply BitVec.eq_of_toNat_eq
  rw [be32_toNat]
  simp only [BitVec.extractLsb'_toNat, Nat.shiftRight_eq_div_pow]
  have := v.isLt
  omega

/-- Four bytes read back from the serial number they make (R54, R87). -/
@[simp] theorem serialBytes_be32 (b3 b2 b1 b0 : Byte) : serialBytes (be32 b3 b2 b1 b0) = [b3, b2, b1, b0] := by
  have h := be32_toNat b3 b2 b1 b0
  have h2 := b2.isLt
  have h1 := b1.isLt
  have h0 := b0.isLt
  simp only [serialBytes, List.cons.injEq, and_true, ← BitVec.toNat_inj, BitVec.extractLsb'_toNat, Nat.shiftRight_eq_div_pow, h]
  omega

end Sys2Proof.Machine
end

