-- ==== Sys2Proof/Laws/State.lean ====
section
/-! SUPPORT. One lemma per field per named update of the state, so that no later proof unfolds a record update. -/

namespace Sys2Proof.Machine

/-! `emit` changes `events` only. -/

@[simp] theorem emit_crcAcc (e : Event) (s : State) : (emit e s).crcAcc = s.crcAcc := rfl
@[simp] theorem emit_crcBit (e : Event) (s : State) : (emit e s).crcBit = s.crcBit := rfl
@[simp] theorem emit_txBuf (e : Event) (s : State) : (emit e s).txBuf = s.txBuf := rfl
@[simp] theorem emit_rxRaw (e : Event) (s : State) : (emit e s).rxRaw = s.rxRaw := rfl
@[simp] theorem emit_frm (e : Event) (s : State) : (emit e s).frm = s.frm := rfl
@[simp] theorem emit_declared (e : Event) (s : State) : (emit e s).declared = s.declared := rfl
@[simp] theorem emit_computed (e : Event) (s : State) : (emit e s).computed = s.computed := rfl
@[simp] theorem emit_crcOk (e : Event) (s : State) : (emit e s).crcOk = s.crcOk := rfl
@[simp] theorem emit_kind (e : Event) (s : State) : (emit e s).kind = s.kind := rfl
@[simp] theorem emit_serial (e : Event) (s : State) : (emit e s).serial = s.serial := rfl
@[simp] theorem emit_busAddr (e : Event) (s : State) : (emit e s).busAddr = s.busAddr := rfl
@[simp] theorem emit_session (e : Event) (s : State) : (emit e s).session = s.session := rfl
@[simp] theorem emit_rateIdx (e : Event) (s : State) : (emit e s).rateIdx = s.rateIdx := rfl
@[simp] theorem emit_portOpen (e : Event) (s : State) : (emit e s).portOpen = s.portOpen := rfl
@[simp] theorem emit_reporter (e : Event) (s : State) : (emit e s).reporter = s.reporter := rfl
@[simp] theorem emit_answers (e : Event) (s : State) : (emit e s).answers = s.answers := rfl
@[simp] theorem emit_events (e : Event) (s : State) : (emit e s).events = s.events ++ [e] := rfl
@[simp] theorem emit_params (e : Event) (s : State) : (emit e s).params = s.params := rfl
@[simp] theorem emit_result (e : Event) (s : State) : (emit e s).result = s.result := rfl
@[simp] theorem emit_freeCount (e : Event) (s : State) : (emit e s).freeCount = s.freeCount := rfl

/-! `setResult` changes `result` only. -/

@[simp] theorem setResult_crcAcc (r : Result) (s : State) : (setResult r s).crcAcc = s.crcAcc := rfl
@[simp] theorem setResult_crcBit (r : Result) (s : State) : (setResult r s).crcBit = s.crcBit := rfl
@[simp] theorem setResult_txBuf (r : Result) (s : State) : (setResult r s).txBuf = s.txBuf := rfl
@[simp] theorem setResult_rxRaw (r : Result) (s : State) : (setResult r s).rxRaw = s.rxRaw := rfl
@[simp] theorem setResult_frm (r : Result) (s : State) : (setResult r s).frm = s.frm := rfl
@[simp] theorem setResult_declared (r : Result) (s : State) : (setResult r s).declared = s.declared := rfl
@[simp] theorem setResult_computed (r : Result) (s : State) : (setResult r s).computed = s.computed := rfl
@[simp] theorem setResult_crcOk (r : Result) (s : State) : (setResult r s).crcOk = s.crcOk := rfl
@[simp] theorem setResult_kind (r : Result) (s : State) : (setResult r s).kind = s.kind := rfl
@[simp] theorem setResult_serial (r : Result) (s : State) : (setResult r s).serial = s.serial := rfl
@[simp] theorem setResult_busAddr (r : Result) (s : State) : (setResult r s).busAddr = s.busAddr := rfl
@[simp] theorem setResult_session (r : Result) (s : State) : (setResult r s).session = s.session := rfl
@[simp] theorem setResult_rateIdx (r : Result) (s : State) : (setResult r s).rateIdx = s.rateIdx := rfl
@[simp] theorem setResult_portOpen (r : Result) (s : State) : (setResult r s).portOpen = s.portOpen := rfl
@[simp] theorem setResult_reporter (r : Result) (s : State) : (setResult r s).reporter = s.reporter := rfl
@[simp] theorem setResult_answers (r : Result) (s : State) : (setResult r s).answers = s.answers := rfl
@[simp] theorem setResult_events (r : Result) (s : State) : (setResult r s).events = s.events := rfl
@[simp] theorem setResult_params (r : Result) (s : State) : (setResult r s).params = s.params := rfl
@[simp] theorem setResult_result (r : Result) (s : State) : (setResult r s).result = r := rfl
@[simp] theorem setResult_freeCount (r : Result) (s : State) : (setResult r s).freeCount = s.freeCount := rfl

/-! `raiseKind` changes `result` only. -/

@[simp] theorem raiseKind_crcAcc (k : Kind) (s : State) : (raiseKind k s).crcAcc = s.crcAcc := rfl
@[simp] theorem raiseKind_crcBit (k : Kind) (s : State) : (raiseKind k s).crcBit = s.crcBit := rfl
@[simp] theorem raiseKind_txBuf (k : Kind) (s : State) : (raiseKind k s).txBuf = s.txBuf := rfl
@[simp] theorem raiseKind_rxRaw (k : Kind) (s : State) : (raiseKind k s).rxRaw = s.rxRaw := rfl
@[simp] theorem raiseKind_frm (k : Kind) (s : State) : (raiseKind k s).frm = s.frm := rfl
@[simp] theorem raiseKind_declared (k : Kind) (s : State) : (raiseKind k s).declared = s.declared := rfl
@[simp] theorem raiseKind_computed (k : Kind) (s : State) : (raiseKind k s).computed = s.computed := rfl
@[simp] theorem raiseKind_crcOk (k : Kind) (s : State) : (raiseKind k s).crcOk = s.crcOk := rfl
@[simp] theorem raiseKind_kind (k : Kind) (s : State) : (raiseKind k s).kind = s.kind := rfl
@[simp] theorem raiseKind_serial (k : Kind) (s : State) : (raiseKind k s).serial = s.serial := rfl
@[simp] theorem raiseKind_busAddr (k : Kind) (s : State) : (raiseKind k s).busAddr = s.busAddr := rfl
@[simp] theorem raiseKind_session (k : Kind) (s : State) : (raiseKind k s).session = s.session := rfl
@[simp] theorem raiseKind_rateIdx (k : Kind) (s : State) : (raiseKind k s).rateIdx = s.rateIdx := rfl
@[simp] theorem raiseKind_portOpen (k : Kind) (s : State) : (raiseKind k s).portOpen = s.portOpen := rfl
@[simp] theorem raiseKind_reporter (k : Kind) (s : State) : (raiseKind k s).reporter = s.reporter := rfl
@[simp] theorem raiseKind_answers (k : Kind) (s : State) : (raiseKind k s).answers = s.answers := rfl
@[simp] theorem raiseKind_events (k : Kind) (s : State) : (raiseKind k s).events = s.events := rfl
@[simp] theorem raiseKind_params (k : Kind) (s : State) : (raiseKind k s).params = s.params := rfl
@[simp] theorem raiseKind_result (k : Kind) (s : State) : (raiseKind k s).result = .raised k := rfl
@[simp] theorem raiseKind_freeCount (k : Kind) (s : State) : (raiseKind k s).freeCount = s.freeCount := rfl

/-! `setSession` changes `session` only. -/

@[simp] theorem setSession_crcAcc (x : Session) (s : State) : (setSession x s).crcAcc = s.crcAcc := rfl
@[simp] theorem setSession_crcBit (x : Session) (s : State) : (setSession x s).crcBit = s.crcBit := rfl
@[simp] theorem setSession_txBuf (x : Session) (s : State) : (setSession x s).txBuf = s.txBuf := rfl
@[simp] theorem setSession_rxRaw (x : Session) (s : State) : (setSession x s).rxRaw = s.rxRaw := rfl
@[simp] theorem setSession_frm (x : Session) (s : State) : (setSession x s).frm = s.frm := rfl
@[simp] theorem setSession_declared (x : Session) (s : State) : (setSession x s).declared = s.declared := rfl
@[simp] theorem setSession_computed (x : Session) (s : State) : (setSession x s).computed = s.computed := rfl
@[simp] theorem setSession_crcOk (x : Session) (s : State) : (setSession x s).crcOk = s.crcOk := rfl
@[simp] theorem setSession_kind (x : Session) (s : State) : (setSession x s).kind = s.kind := rfl
@[simp] theorem setSession_serial (x : Session) (s : State) : (setSession x s).serial = s.serial := rfl
@[simp] theorem setSession_busAddr (x : Session) (s : State) : (setSession x s).busAddr = s.busAddr := rfl
@[simp] theorem setSession_session (x : Session) (s : State) : (setSession x s).session = x := rfl
@[simp] theorem setSession_rateIdx (x : Session) (s : State) : (setSession x s).rateIdx = s.rateIdx := rfl
@[simp] theorem setSession_portOpen (x : Session) (s : State) : (setSession x s).portOpen = s.portOpen := rfl
@[simp] theorem setSession_reporter (x : Session) (s : State) : (setSession x s).reporter = s.reporter := rfl
@[simp] theorem setSession_answers (x : Session) (s : State) : (setSession x s).answers = s.answers := rfl
@[simp] theorem setSession_events (x : Session) (s : State) : (setSession x s).events = s.events := rfl
@[simp] theorem setSession_params (x : Session) (s : State) : (setSession x s).params = s.params := rfl
@[simp] theorem setSession_result (x : Session) (s : State) : (setSession x s).result = s.result := rfl
@[simp] theorem setSession_freeCount (x : Session) (s : State) : (setSession x s).freeCount = s.freeCount := rfl

/-! `setPort` changes `portOpen` only. -/

@[simp] theorem setPort_crcAcc (v : Bool) (s : State) : (setPort v s).crcAcc = s.crcAcc := rfl
@[simp] theorem setPort_crcBit (v : Bool) (s : State) : (setPort v s).crcBit = s.crcBit := rfl
@[simp] theorem setPort_txBuf (v : Bool) (s : State) : (setPort v s).txBuf = s.txBuf := rfl
@[simp] theorem setPort_rxRaw (v : Bool) (s : State) : (setPort v s).rxRaw = s.rxRaw := rfl
@[simp] theorem setPort_frm (v : Bool) (s : State) : (setPort v s).frm = s.frm := rfl
@[simp] theorem setPort_declared (v : Bool) (s : State) : (setPort v s).declared = s.declared := rfl
@[simp] theorem setPort_computed (v : Bool) (s : State) : (setPort v s).computed = s.computed := rfl
@[simp] theorem setPort_crcOk (v : Bool) (s : State) : (setPort v s).crcOk = s.crcOk := rfl
@[simp] theorem setPort_kind (v : Bool) (s : State) : (setPort v s).kind = s.kind := rfl
@[simp] theorem setPort_serial (v : Bool) (s : State) : (setPort v s).serial = s.serial := rfl
@[simp] theorem setPort_busAddr (v : Bool) (s : State) : (setPort v s).busAddr = s.busAddr := rfl
@[simp] theorem setPort_session (v : Bool) (s : State) : (setPort v s).session = s.session := rfl
@[simp] theorem setPort_rateIdx (v : Bool) (s : State) : (setPort v s).rateIdx = s.rateIdx := rfl
@[simp] theorem setPort_portOpen (v : Bool) (s : State) : (setPort v s).portOpen = v := rfl
@[simp] theorem setPort_reporter (v : Bool) (s : State) : (setPort v s).reporter = s.reporter := rfl
@[simp] theorem setPort_answers (v : Bool) (s : State) : (setPort v s).answers = s.answers := rfl
@[simp] theorem setPort_events (v : Bool) (s : State) : (setPort v s).events = s.events := rfl
@[simp] theorem setPort_params (v : Bool) (s : State) : (setPort v s).params = s.params := rfl
@[simp] theorem setPort_result (v : Bool) (s : State) : (setPort v s).result = s.result := rfl
@[simp] theorem setPort_freeCount (v : Bool) (s : State) : (setPort v s).freeCount = s.freeCount := rfl

/-! `recordKind` changes `kind`, and `serial` and `busAddr` unless the kind is `DeviceFound`. -/

@[simp] theorem recordKind_crcAcc (k : Kind) (s : State) : (recordKind k s).crcAcc = s.crcAcc := by unfold recordKind; split <;> rfl
@[simp] theorem recordKind_crcBit (k : Kind) (s : State) : (recordKind k s).crcBit = s.crcBit := by unfold recordKind; split <;> rfl
@[simp] theorem recordKind_txBuf (k : Kind) (s : State) : (recordKind k s).txBuf = s.txBuf := by unfold recordKind; split <;> rfl
@[simp] theorem recordKind_rxRaw (k : Kind) (s : State) : (recordKind k s).rxRaw = s.rxRaw := by unfold recordKind; split <;> rfl
@[simp] theorem recordKind_frm (k : Kind) (s : State) : (recordKind k s).frm = s.frm := by unfold recordKind; split <;> rfl
@[simp] theorem recordKind_declared (k : Kind) (s : State) : (recordKind k s).declared = s.declared := by unfold recordKind; split <;> rfl
@[simp] theorem recordKind_computed (k : Kind) (s : State) : (recordKind k s).computed = s.computed := by unfold recordKind; split <;> rfl
@[simp] theorem recordKind_crcOk (k : Kind) (s : State) : (recordKind k s).crcOk = s.crcOk := by unfold recordKind; split <;> rfl
@[simp] theorem recordKind_kind (k : Kind) (s : State) : (recordKind k s).kind = k := by unfold recordKind; split <;> rfl
@[simp] theorem recordKind_serial (k : Kind) (s : State) : (recordKind k s).serial = if k = .deviceFound then s.serial else none := by unfold recordKind; split <;> rfl
@[simp] theorem recordKind_busAddr (k : Kind) (s : State) : (recordKind k s).busAddr = if k = .deviceFound then s.busAddr else none := by unfold recordKind; split <;> rfl
@[simp] theorem recordKind_session (k : Kind) (s : State) : (recordKind k s).session = s.session := by unfold recordKind; split <;> rfl
@[simp] theorem recordKind_rateIdx (k : Kind) (s : State) : (recordKind k s).rateIdx = s.rateIdx := by unfold recordKind; split <;> rfl
@[simp] theorem recordKind_portOpen (k : Kind) (s : State) : (recordKind k s).portOpen = s.portOpen := by unfold recordKind; split <;> rfl
@[simp] theorem recordKind_reporter (k : Kind) (s : State) : (recordKind k s).reporter = s.reporter := by unfold recordKind; split <;> rfl
@[simp] theorem recordKind_answers (k : Kind) (s : State) : (recordKind k s).answers = s.answers := by unfold recordKind; split <;> rfl
@[simp] theorem recordKind_events (k : Kind) (s : State) : (recordKind k s).events = s.events := by unfold recordKind; split <;> rfl
@[simp] theorem recordKind_params (k : Kind) (s : State) : (recordKind k s).params = s.params := by unfold recordKind; split <;> rfl
@[simp] theorem recordKind_result (k : Kind) (s : State) : (recordKind k s).result = s.result := by unfold recordKind; split <;> rfl
@[simp] theorem recordKind_freeCount (k : Kind) (s : State) : (recordKind k s).freeCount = s.freeCount := by unfold recordKind; split <;> rfl

/-! `deliver` changes `rxRaw` and `events`. -/

@[simp] theorem deliver_crcAcc (raw : List Byte) (s : State) : (deliver raw s).crcAcc = s.crcAcc := rfl
@[simp] theorem deliver_crcBit (raw : List Byte) (s : State) : (deliver raw s).crcBit = s.crcBit := rfl
@[simp] theorem deliver_txBuf (raw : List Byte) (s : State) : (deliver raw s).txBuf = s.txBuf := rfl
@[simp] theorem deliver_rxRaw (raw : List Byte) (s : State) : (deliver raw s).rxRaw = takeAtMost raw s.params.rxMax := rfl
@[simp] theorem deliver_frm (raw : List Byte) (s : State) : (deliver raw s).frm = s.frm := rfl
@[simp] theorem deliver_declared (raw : List Byte) (s : State) : (deliver raw s).declared = s.declared := rfl
@[simp] theorem deliver_computed (raw : List Byte) (s : State) : (deliver raw s).computed = s.computed := rfl
@[simp] theorem deliver_crcOk (raw : List Byte) (s : State) : (deliver raw s).crcOk = s.crcOk := rfl
@[simp] theorem deliver_kind (raw : List Byte) (s : State) : (deliver raw s).kind = s.kind := rfl
@[simp] theorem deliver_serial (raw : List Byte) (s : State) : (deliver raw s).serial = s.serial := rfl
@[simp] theorem deliver_busAddr (raw : List Byte) (s : State) : (deliver raw s).busAddr = s.busAddr := rfl
@[simp] theorem deliver_session (raw : List Byte) (s : State) : (deliver raw s).session = s.session := rfl
@[simp] theorem deliver_rateIdx (raw : List Byte) (s : State) : (deliver raw s).rateIdx = s.rateIdx := rfl
@[simp] theorem deliver_portOpen (raw : List Byte) (s : State) : (deliver raw s).portOpen = s.portOpen := rfl
@[simp] theorem deliver_reporter (raw : List Byte) (s : State) : (deliver raw s).reporter = s.reporter := rfl
@[simp] theorem deliver_answers (raw : List Byte) (s : State) : (deliver raw s).answers = s.answers := rfl
@[simp] theorem deliver_events (raw : List Byte) (s : State) : (deliver raw s).events = s.events ++ [.rx (takeAtMost raw s.params.rxMax)] := rfl
@[simp] theorem deliver_params (raw : List Byte) (s : State) : (deliver raw s).params = s.params := rfl
@[simp] theorem deliver_result (raw : List Byte) (s : State) : (deliver raw s).result = s.result := rfl
@[simp] theorem deliver_freeCount (raw : List Byte) (s : State) : (deliver raw s).freeCount = s.freeCount := rfl

/-! `settleOp` changes `events` only. -/

@[simp] theorem settleOp_crcAcc (s : State) : (settleOp s).crcAcc = s.crcAcc := rfl
@[simp] theorem settleOp_crcBit (s : State) : (settleOp s).crcBit = s.crcBit := rfl
@[simp] theorem settleOp_txBuf (s : State) : (settleOp s).txBuf = s.txBuf := rfl
@[simp] theorem settleOp_rxRaw (s : State) : (settleOp s).rxRaw = s.rxRaw := rfl
@[simp] theorem settleOp_frm (s : State) : (settleOp s).frm = s.frm := rfl
@[simp] theorem settleOp_declared (s : State) : (settleOp s).declared = s.declared := rfl
@[simp] theorem settleOp_computed (s : State) : (settleOp s).computed = s.computed := rfl
@[simp] theorem settleOp_crcOk (s : State) : (settleOp s).crcOk = s.crcOk := rfl
@[simp] theorem settleOp_kind (s : State) : (settleOp s).kind = s.kind := rfl
@[simp] theorem settleOp_serial (s : State) : (settleOp s).serial = s.serial := rfl
@[simp] theorem settleOp_busAddr (s : State) : (settleOp s).busAddr = s.busAddr := rfl
@[simp] theorem settleOp_session (s : State) : (settleOp s).session = s.session := rfl
@[simp] theorem settleOp_rateIdx (s : State) : (settleOp s).rateIdx = s.rateIdx := rfl
@[simp] theorem settleOp_portOpen (s : State) : (settleOp s).portOpen = s.portOpen := rfl
@[simp] theorem settleOp_reporter (s : State) : (settleOp s).reporter = s.reporter := rfl
@[simp] theorem settleOp_answers (s : State) : (settleOp s).answers = s.answers := rfl
@[simp] theorem settleOp_events (s : State) : (settleOp s).events = s.events ++ [.settle s.params.settleInterval] := rfl
@[simp] theorem settleOp_params (s : State) : (settleOp s).params = s.params := rfl
@[simp] theorem settleOp_result (s : State) : (settleOp s).result = s.result := rfl
@[simp] theorem settleOp_freeCount (s : State) : (settleOp s).freeCount = s.freeCount := rfl

/-! `denoiseOp` changes `frm` only. -/

@[simp] theorem denoiseOp_crcAcc (s : State) : (denoiseOp s).crcAcc = s.crcAcc := rfl
@[simp] theorem denoiseOp_crcBit (s : State) : (denoiseOp s).crcBit = s.crcBit := rfl
@[simp] theorem denoiseOp_txBuf (s : State) : (denoiseOp s).txBuf = s.txBuf := rfl
@[simp] theorem denoiseOp_rxRaw (s : State) : (denoiseOp s).rxRaw = s.rxRaw := rfl
@[simp] theorem denoiseOp_frm (s : State) : (denoiseOp s).frm = denoise s.rxRaw := rfl
@[simp] theorem denoiseOp_declared (s : State) : (denoiseOp s).declared = s.declared := rfl
@[simp] theorem denoiseOp_computed (s : State) : (denoiseOp s).computed = s.computed := rfl
@[simp] theorem denoiseOp_crcOk (s : State) : (denoiseOp s).crcOk = s.crcOk := rfl
@[simp] theorem denoiseOp_kind (s : State) : (denoiseOp s).kind = s.kind := rfl
@[simp] theorem denoiseOp_serial (s : State) : (denoiseOp s).serial = s.serial := rfl
@[simp] theorem denoiseOp_busAddr (s : State) : (denoiseOp s).busAddr = s.busAddr := rfl
@[simp] theorem denoiseOp_session (s : State) : (denoiseOp s).session = s.session := rfl
@[simp] theorem denoiseOp_rateIdx (s : State) : (denoiseOp s).rateIdx = s.rateIdx := rfl
@[simp] theorem denoiseOp_portOpen (s : State) : (denoiseOp s).portOpen = s.portOpen := rfl
@[simp] theorem denoiseOp_reporter (s : State) : (denoiseOp s).reporter = s.reporter := rfl
@[simp] theorem denoiseOp_answers (s : State) : (denoiseOp s).answers = s.answers := rfl
@[simp] theorem denoiseOp_events (s : State) : (denoiseOp s).events = s.events := rfl
@[simp] theorem denoiseOp_params (s : State) : (denoiseOp s).params = s.params := rfl
@[simp] theorem denoiseOp_result (s : State) : (denoiseOp s).result = s.result := rfl
@[simp] theorem denoiseOp_freeCount (s : State) : (denoiseOp s).freeCount = s.freeCount := rfl

/-! `initOp` changes `crcAcc` only. -/

@[simp] theorem initOp_crcAcc (s : State) : (initOp s).crcAcc = crcInitValue := rfl
@[simp] theorem initOp_crcBit (s : State) : (initOp s).crcBit = s.crcBit := rfl
@[simp] theorem initOp_txBuf (s : State) : (initOp s).txBuf = s.txBuf := rfl
@[simp] theorem initOp_rxRaw (s : State) : (initOp s).rxRaw = s.rxRaw := rfl
@[simp] theorem initOp_frm (s : State) : (initOp s).frm = s.frm := rfl
@[simp] theorem initOp_declared (s : State) : (initOp s).declared = s.declared := rfl
@[simp] theorem initOp_computed (s : State) : (initOp s).computed = s.computed := rfl
@[simp] theorem initOp_crcOk (s : State) : (initOp s).crcOk = s.crcOk := rfl
@[simp] theorem initOp_kind (s : State) : (initOp s).kind = s.kind := rfl
@[simp] theorem initOp_serial (s : State) : (initOp s).serial = s.serial := rfl
@[simp] theorem initOp_busAddr (s : State) : (initOp s).busAddr = s.busAddr := rfl
@[simp] theorem initOp_session (s : State) : (initOp s).session = s.session := rfl
@[simp] theorem initOp_rateIdx (s : State) : (initOp s).rateIdx = s.rateIdx := rfl
@[simp] theorem initOp_portOpen (s : State) : (initOp s).portOpen = s.portOpen := rfl
@[simp] theorem initOp_reporter (s : State) : (initOp s).reporter = s.reporter := rfl
@[simp] theorem initOp_answers (s : State) : (initOp s).answers = s.answers := rfl
@[simp] theorem initOp_events (s : State) : (initOp s).events = s.events := rfl
@[simp] theorem initOp_params (s : State) : (initOp s).params = s.params := rfl
@[simp] theorem initOp_result (s : State) : (initOp s).result = s.result := rfl
@[simp] theorem initOp_freeCount (s : State) : (initOp s).freeCount = s.freeCount := rfl

/-! `xorOp` changes `crcAcc` and `crcBit`. -/

@[simp] theorem xorOp_crcAcc (b : Byte) (s : State) : (xorOp b s).crcAcc = crcXor s.crcAcc b := rfl
@[simp] theorem xorOp_crcBit (b : Byte) (s : State) : (xorOp b s).crcBit = 0 := rfl
@[simp] theorem xorOp_txBuf (b : Byte) (s : State) : (xorOp b s).txBuf = s.txBuf := rfl
@[simp] theorem xorOp_rxRaw (b : Byte) (s : State) : (xorOp b s).rxRaw = s.rxRaw := rfl
@[simp] theorem xorOp_frm (b : Byte) (s : State) : (xorOp b s).frm = s.frm := rfl
@[simp] theorem xorOp_declared (b : Byte) (s : State) : (xorOp b s).declared = s.declared := rfl
@[simp] theorem xorOp_computed (b : Byte) (s : State) : (xorOp b s).computed = s.computed := rfl
@[simp] theorem xorOp_crcOk (b : Byte) (s : State) : (xorOp b s).crcOk = s.crcOk := rfl
@[simp] theorem xorOp_kind (b : Byte) (s : State) : (xorOp b s).kind = s.kind := rfl
@[simp] theorem xorOp_serial (b : Byte) (s : State) : (xorOp b s).serial = s.serial := rfl
@[simp] theorem xorOp_busAddr (b : Byte) (s : State) : (xorOp b s).busAddr = s.busAddr := rfl
@[simp] theorem xorOp_session (b : Byte) (s : State) : (xorOp b s).session = s.session := rfl
@[simp] theorem xorOp_rateIdx (b : Byte) (s : State) : (xorOp b s).rateIdx = s.rateIdx := rfl
@[simp] theorem xorOp_portOpen (b : Byte) (s : State) : (xorOp b s).portOpen = s.portOpen := rfl
@[simp] theorem xorOp_reporter (b : Byte) (s : State) : (xorOp b s).reporter = s.reporter := rfl
@[simp] theorem xorOp_answers (b : Byte) (s : State) : (xorOp b s).answers = s.answers := rfl
@[simp] theorem xorOp_events (b : Byte) (s : State) : (xorOp b s).events = s.events := rfl
@[simp] theorem xorOp_params (b : Byte) (s : State) : (xorOp b s).params = s.params := rfl
@[simp] theorem xorOp_result (b : Byte) (s : State) : (xorOp b s).result = s.result := rfl
@[simp] theorem xorOp_freeCount (b : Byte) (s : State) : (xorOp b s).freeCount = s.freeCount := rfl

/-! `byteOp` changes `crcAcc` and `crcBit`. -/

@[simp] theorem byteOp_crcAcc (b : Byte) (s : State) : (byteOp b s).crcAcc = crcByte s.crcAcc b := rfl
@[simp] theorem byteOp_crcBit (b : Byte) (s : State) : (byteOp b s).crcBit = 8 := rfl
@[simp] theorem byteOp_txBuf (b : Byte) (s : State) : (byteOp b s).txBuf = s.txBuf := rfl
@[simp] theorem byteOp_rxRaw (b : Byte) (s : State) : (byteOp b s).rxRaw = s.rxRaw := rfl
@[simp] theorem byteOp_frm (b : Byte) (s : State) : (byteOp b s).frm = s.frm := rfl
@[simp] theorem byteOp_declared (b : Byte) (s : State) : (byteOp b s).declared = s.declared := rfl
@[simp] theorem byteOp_computed (b : Byte) (s : State) : (byteOp b s).computed = s.computed := rfl
@[simp] theorem byteOp_crcOk (b : Byte) (s : State) : (byteOp b s).crcOk = s.crcOk := rfl
@[simp] theorem byteOp_kind (b : Byte) (s : State) : (byteOp b s).kind = s.kind := rfl
@[simp] theorem byteOp_serial (b : Byte) (s : State) : (byteOp b s).serial = s.serial := rfl
@[simp] theorem byteOp_busAddr (b : Byte) (s : State) : (byteOp b s).busAddr = s.busAddr := rfl
@[simp] theorem byteOp_session (b : Byte) (s : State) : (byteOp b s).session = s.session := rfl
@[simp] theorem byteOp_rateIdx (b : Byte) (s : State) : (byteOp b s).rateIdx = s.rateIdx := rfl
@[simp] theorem byteOp_portOpen (b : Byte) (s : State) : (byteOp b s).portOpen = s.portOpen := rfl
@[simp] theorem byteOp_reporter (b : Byte) (s : State) : (byteOp b s).reporter = s.reporter := rfl
@[simp] theorem byteOp_answers (b : Byte) (s : State) : (byteOp b s).answers = s.answers := rfl
@[simp] theorem byteOp_events (b : Byte) (s : State) : (byteOp b s).events = s.events := rfl
@[simp] theorem byteOp_params (b : Byte) (s : State) : (byteOp b s).params = s.params := rfl
@[simp] theorem byteOp_result (b : Byte) (s : State) : (byteOp b s).result = s.result := rfl
@[simp] theorem byteOp_freeCount (b : Byte) (s : State) : (byteOp b s).freeCount = s.freeCount := rfl

/-! `advanceRate` changes `session` and `rateIdx`. -/

@[simp] theorem advanceRate_crcAcc (s : State) : (advanceRate s).crcAcc = s.crcAcc := rfl
@[simp] theorem advanceRate_crcBit (s : State) : (advanceRate s).crcBit = s.crcBit := rfl
@[simp] theorem advanceRate_txBuf (s : State) : (advanceRate s).txBuf = s.txBuf := rfl
@[simp] theorem advanceRate_rxRaw (s : State) : (advanceRate s).rxRaw = s.rxRaw := rfl
@[simp] theorem advanceRate_frm (s : State) : (advanceRate s).frm = s.frm := rfl
@[simp] theorem advanceRate_declared (s : State) : (advanceRate s).declared = s.declared := rfl
@[simp] theorem advanceRate_computed (s : State) : (advanceRate s).computed = s.computed := rfl
@[simp] theorem advanceRate_crcOk (s : State) : (advanceRate s).crcOk = s.crcOk := rfl
@[simp] theorem advanceRate_kind (s : State) : (advanceRate s).kind = s.kind := rfl
@[simp] theorem advanceRate_serial (s : State) : (advanceRate s).serial = s.serial := rfl
@[simp] theorem advanceRate_busAddr (s : State) : (advanceRate s).busAddr = s.busAddr := rfl
@[simp] theorem advanceRate_session (s : State) : (advanceRate s).session = .idle := rfl
@[simp] theorem advanceRate_rateIdx (s : State) : (advanceRate s).rateIdx = nextRate s.rateIdx := rfl
@[simp] theorem advanceRate_portOpen (s : State) : (advanceRate s).portOpen = s.portOpen := rfl
@[simp] theorem advanceRate_reporter (s : State) : (advanceRate s).reporter = s.reporter := rfl
@[simp] theorem advanceRate_answers (s : State) : (advanceRate s).answers = s.answers := rfl
@[simp] theorem advanceRate_events (s : State) : (advanceRate s).events = s.events := rfl
@[simp] theorem advanceRate_params (s : State) : (advanceRate s).params = s.params := rfl
@[simp] theorem advanceRate_result (s : State) : (advanceRate s).result = s.result := rfl
@[simp] theorem advanceRate_freeCount (s : State) : (advanceRate s).freeCount = s.freeCount := rfl

end Sys2Proof.Machine
end

