-- ==== Sys2Proof/Laws/Checksum.lean ====
section
/-! SUPPORT. What the checksum unit's operations do to the state: they write `crc_acc` and `crc_bit` and nothing else (R110). -/

namespace Sys2Proof.Machine

/-- `CRC.BYTE` over a sequence, as one update (R116, R120): the count of shifts is 8 after at least one byte (R22). -/
theorem bytesOp_eq (bs : List Byte) (s : State) :
    bytesOp bs s = { s with crcAcc := crcRun s.crcAcc bs, crcBit := if bs = [] then s.crcBit else 8 } := by
  induction bs generalizing s with
  | nil => rfl
  | cons b bs ih => rw [bytesOp, ih]; cases bs <;> simp [crcRun, byteOp]

/-- `CRC.SEQ`, as one update: the result depends on the bytes alone (R110, R116). -/
theorem seqOp_eq (bs : List Byte) (s : State) :
    seqOp bs s = { s with crcAcc := checksum bs, crcBit := if bs = [] then s.crcBit else 8 } := by
  simp [seqOp, bytesOp_eq, initOp, checksum]

@[simp] theorem seqOp_crcAcc (bs : List Byte) (s : State) : (seqOp bs s).crcAcc = checksum bs := by rw [seqOp_eq]

/-- `CRC.SHIFT` always shifts the accumulator (R113). -/
@[simp] theorem shiftOp_crcAcc (s : State) : (shiftOp s).crcAcc = crcShift s.crcAcc := by unfold shiftOp; split <;> rfl

/-- `CRC.SHIFT` counts within 0 to 8 (R22, R113). -/
theorem shiftOp_crcBit {s : State} (h : s.crcBit.val < 8) : (shiftOp s).crcBit.val = s.crcBit.val + 1 := by
  simp [shiftOp, h]

/-- `ENC.BUILD`, as one update (R131). -/
theorem buildOp_eq (a f s : Byte) (st : State) :
    buildOp a f s st = { st with crcAcc := checksum [a, f, s], crcBit := 8, txBuf := buildFrame a f s } := by
  simp [buildOp, seqOp_eq, buildFrame]

/-- The frame built is the three header bytes and their checksum (R131, R132). -/
theorem buildFrame_toBytes (a f s : Byte) : (buildFrame a f s).toBytes = sealFrame [a, f, s] := rfl

end Sys2Proof.Machine
end

