-- ==== Sys2Proof/Laws/Decoder.lean ====
section
/-! SUPPORT. What each step of the decoder answers, once and for all: the later proofs cite these and unfold no step. -/

namespace Sys2Proof.Machine

/-- Reading a byte inside the buffer goes on with it (R52). -/
theorem readByte_of_lt {buf : List Byte} {i : Nat} (h : i < buf.length) (k : Byte → Answer) :
    readByte buf i k = k (byteAt buf i) := by
  simp [readByte, byteAt, h]

/-- Reading a byte outside the buffer is a fault (R52). -/
theorem readByte_of_le {buf : List Byte} {i : Nat} (h : buf.length ≤ i) (k : Byte → Answer) :
    readByte buf i k = .fault .bufferOutOfBounds := by
  simp [readByte, h]

@[simp] theorem andThen_next (s : State) (f : State → Answer) : andThen (.next s) f = f s := rfl
@[simp] theorem andThen_fault (r : Fault) (f : State → Answer) : andThen (.fault r) f = .fault r := rfl
@[simp] theorem andThen_refused (r : Refusal) (f : State → Answer) : andThen (.refused r) f = .refused r := rfl

/-- A sequence of two operations answers a next state exactly when both do. -/
theorem andThen_eq_next {o : Answer} {f : State → Answer} {t : State} :
    andThen o f = .next t ↔ ∃ u, o = .next u ∧ f u = .next t := by
  cases o <;> simp

/-- What the validator leaves when the length test passes (R26, R144). -/
def validated (s : State) : State :=
  let n := s.frm.length
  let d := le16 (byteAt s.frm (n - 2)) (byteAt s.frm (n - 1))
  let c := checksum (s.frm.take (n - 2))
  { s with
    crcAcc := c, crcBit := if s.frm.take (n - 2) = [] then s.crcBit else 8, declared := d, computed := c, crcOk := crcOkOf d c }

/-- `DEC.VALIDATE` on a short frame (R143). -/
theorem validateOp_short {s : State} (h : s.frm.length < 5) : validateOp s = .next (raiseKind .malformedFrame s) := by
  simp [validateOp, State.frmLen, minFrameLen, h]

/-- `DEC.VALIDATE` on a frame of at least 5 bytes (R144). -/
theorem validateOp_long {s : State} (h : 5 ≤ s.frm.length) :
    validateOp s =
      .next (if (validated s).crcOk = true then setResult .passed (validated s) else raiseKind .checksumMismatch (validated s)) := by
  have h1 : ¬ s.frmLen < minFrameLen := Nat.not_lt.mpr h
  rw [validateOp, if_neg h1, State.frmLen, readByte_of_lt (by omega), readByte_of_lt (by omega), memRead, if_pos (by omega)]
  simp only [seqOp_eq, validated, crcLen, List.drop_zero]
  rfl

/-- What the header test and the type test raise, `none` where they pass (R145, R146). -/
def headerKind (f : List Byte) : Option Kind :=
  if byteAt f 0 ≠ addrBroadcast ∨ byteAt f 1 ≠ funcExt then some .unrecognizedFrame
  else if byteAt f 2 = subEnd then some .scanEnded
  else if byteAt f 2 = subResponse then none
  else some .unrecognizedFrame

/-- The state after a step that raises a kind, or passes. -/
def endStep (k : Option Kind) (s : State) : State :=
  match k with
  | some k => raiseKind k s
  | none => setResult .passed s

/-- `DEC.CLASSIFY` where its precondition holds (R145, R146). -/
theorem classifyOp_good {s : State} (hc : s.crcOk = true) (h : 5 ≤ s.frm.length) :
    classifyOp s = .next (endStep (headerKind s.frm) s) := by
  rw [classifyOp, if_pos ⟨hc, h⟩, readByte_of_lt (by omega), readByte_of_lt (by omega), readByte_of_lt (by omega)]
  unfold headerKind
  split_ifs <;> rfl

/-- `DEC.EXTRACT` on a frame of the wrong length (R147). -/
theorem extractOp_wrong {s : State} (h : 3 ≤ s.frm.length) (h2 : byteAt s.frm 2 = subResponse) (hn : s.frm.length ≠ 10) :
    extractOp s = .next (raiseKind .malformedDeviceRecord s) := by
  rw [extractOp, readByte_of_lt (by omega), if_pos h2, if_pos (show s.frmLen ≠ devFoundLen from hn)]

/-- The device fields of a frame (R87, R147). -/
def withDevice (v : State) : State :=
  { v with
    serial := some (be32 (byteAt v.frm 3) (byteAt v.frm 4) (byteAt v.frm 5) (byteAt v.frm 6))
    busAddr := some (byteAt v.frm 7) }

/-- `DEC.EXTRACT` on a frame of 10 bytes (R147). -/
theorem extractOp_right {s : State} (hn : s.frm.length = 10) (h2 : byteAt s.frm 2 = subResponse) :
    extractOp s = .next (raiseKind .deviceFound (withDevice s)) := by
  rw [extractOp, readByte_of_lt (by omega), if_pos h2, if_neg (not_not.mpr (show s.frmLen = devFoundLen from hn)),
    readByte_of_lt (by omega), readByte_of_lt (by omega), readByte_of_lt (by omega), readByte_of_lt (by omega),
    readByte_of_lt (by omega)]
  rfl

/-- A step that raised ends the parse (R148). -/
@[simp] theorem unlessRaised_raised (f : State → Answer) (k : Kind) (s : State) :
    unlessRaised f (raiseKind k s) = .next (recordKind k (raiseKind k s)) := rfl

/-- A step that passed goes on (R148). -/
@[simp] theorem unlessRaised_passed (f : State → Answer) (s : State) :
    unlessRaised f (setResult .passed s) = f (setResult .passed s) := rfl

/-- The kind a parse ends with, in the result and in `kind` (R14, R148). -/
def parsed (k : Kind) (s : State) : State := recordKind k (raiseKind k s)

/-- `DEC.PARSE` of an empty receive (R142). -/
theorem parseOp_empty {s : State} (h : s.rxRaw = []) : parseOp s = .next (parsed .scanComplete s) := by
  rw [parseOp, if_pos h]; rfl

/-- `DEC.PARSE` of fewer than 5 bytes other than 0xFF (R143). -/
theorem parseOp_short {s : State} (h : s.rxRaw ≠ []) (hn : (denoise s.rxRaw).length < 5) :
    parseOp s = .next (parsed .malformedFrame (denoiseOp s)) := by
  rw [parseOp, if_neg h, validateOp_short (by simpa using hn), andThen_next, unlessRaised_raised]; rfl

/-- `DEC.PARSE` of a frame whose checksum test fails (R144). -/
theorem parseOp_mismatch {s : State} (h : s.rxRaw ≠ []) (hn : 5 ≤ (denoise s.rxRaw).length)
    (hc : (validated (denoiseOp s)).crcOk = false) :
    parseOp s = .next (parsed .checksumMismatch (validated (denoiseOp s))) := by
  rw [parseOp, if_neg h, validateOp_long (by simpa using hn), if_neg (by simp [hc]), andThen_next, unlessRaised_raised]; rfl

/-- `DEC.PARSE` of a frame that the header test or the type test ends (R145, R146). -/
theorem parseOp_header {s : State} {k : Kind} (h : s.rxRaw ≠ []) (hn : 5 ≤ (denoise s.rxRaw).length)
    (hc : (validated (denoiseOp s)).crcOk = true) (hk : headerKind (denoise s.rxRaw) = some k) :
    parseOp s = .next (parsed k (validated (denoiseOp s))) := by
  rw [parseOp, if_neg h, validateOp_long (by simpa using hn), if_pos hc, andThen_next, unlessRaised_passed,
    classifyOp_good (s := setResult .passed (validated (denoiseOp s))) hc (show 5 ≤ (denoise s.rxRaw).length by omega),
    show headerKind (setResult .passed (validated (denoiseOp s))).frm = some k from hk]
  rfl

/-- `DEC.PARSE` of a device record of the wrong length (R147). -/
theorem parseOp_record {s : State} (h : s.rxRaw ≠ []) (hn : 5 ≤ (denoise s.rxRaw).length)
    (hc : (validated (denoiseOp s)).crcOk = true) (hk : headerKind (denoise s.rxRaw) = none) (hl : (denoise s.rxRaw).length ≠ 10) :
    parseOp s = .next (parsed .malformedDeviceRecord (validated (denoiseOp s))) := by
  have h2 : byteAt (denoise s.rxRaw) 2 = subResponse := by
    unfold headerKind at hk; split_ifs at hk; assumption
  rw [parseOp, if_neg h, validateOp_long (by simpa using hn), if_pos hc, andThen_next, unlessRaised_passed,
    classifyOp_good (s := setResult .passed (validated (denoiseOp s))) hc (show 5 ≤ (denoise s.rxRaw).length by omega),
    show headerKind (setResult .passed (validated (denoiseOp s))).frm = none from hk, endStep, andThen_next, unlessRaised_passed,
    extractOp_wrong (s := setResult .passed (setResult .passed (validated (denoiseOp s))))
      (show 3 ≤ (denoise s.rxRaw).length by omega) h2 hl]
  rfl

/-- `DEC.PARSE` of a device-found frame (R147). -/
theorem parseOp_device {s : State} (h : s.rxRaw ≠ [])
    (hc : (validated (denoiseOp s)).crcOk = true) (hk : headerKind (denoise s.rxRaw) = none) (hl : (denoise s.rxRaw).length = 10) :
    parseOp s = .next (parsed .deviceFound (withDevice (validated (denoiseOp s)))) := by
  have h2 : byteAt (denoise s.rxRaw) 2 = subResponse := by
    unfold headerKind at hk; split_ifs at hk; assumption
  rw [parseOp, if_neg h, validateOp_long (show 5 ≤ (denoise s.rxRaw).length by omega), if_pos hc, andThen_next, unlessRaised_passed,
    classifyOp_good (s := setResult .passed (validated (denoiseOp s))) hc (show 5 ≤ (denoise s.rxRaw).length by omega),
    show headerKind (setResult .passed (validated (denoiseOp s))).frm = none from hk, endStep, andThen_next, unlessRaised_passed,
    extractOp_right (s := setResult .passed (setResult .passed (validated (denoiseOp s)))) hl h2]
  rfl

/-- Only the tests of the header and the type byte can end a frame before the length-10 test, and not as a device (R145, R146). -/
theorem headerKind_ne_deviceFound (f : List Byte) : headerKind f ≠ some .deviceFound := by
  unfold headerKind; split_ifs <;> simp

/-- Everything `DEC.PARSE` can do: it always answers a next state, with `frm` the denoised bytes unless nothing was received, the kind
raised as its result and in `kind`, a device only with `DeviceFound`, and nothing outside the decoder and the checksum unit changed
(R30, R36, R149). -/
theorem parseOp_next (s : State) :
    ∃ t, parseOp s = .next t ∧ t.result = .raised t.kind ∧
      t.frm = (if s.rxRaw = [] then s.frm else denoise s.rxRaw) ∧
      (t.serial.isSome = true ↔ t.kind = .deviceFound) ∧ (t.busAddr.isSome = true ↔ t.kind = .deviceFound) ∧
      t = { s with
        crcAcc := t.crcAcc, crcBit := t.crcBit, frm := t.frm, declared := t.declared, computed := t.computed
        crcOk := t.crcOk, kind := t.kind, serial := t.serial, busAddr := t.busAddr, result := t.result } := by
  have key : ∀ k (u : State), k ≠ .deviceFound → parsed k u = { u with kind := k, serial := none, busAddr := none, result := .raised k } := by
    intro k u hk; simp [parsed, recordKind, hk, raiseKind, setResult]
  by_cases h : s.rxRaw = []
  · refine ⟨_, parseOp_empty h, ?_⟩; rw [key _ _ (by simp)]; simp [h]
  by_cases hn : (denoise s.rxRaw).length < 5
  · refine ⟨_, parseOp_short h hn, ?_⟩; rw [key _ _ (by simp)]; simp [h, denoiseOp]
  have hn := Nat.not_lt.mp hn
  cases hc : (validated (denoiseOp s)).crcOk with
  | false => refine ⟨_, parseOp_mismatch h hn hc, ?_⟩; rw [key _ _ (by simp)]; simp [h, denoiseOp, validated]
  | true =>
    cases hk : headerKind (denoise s.rxRaw) with
    | some k =>
      refine ⟨_, parseOp_header h hn hc hk, ?_⟩
      have hne : k ≠ .deviceFound := fun e => headerKind_ne_deviceFound _ (e ▸ hk)
      rw [key _ _ hne]; simp [h, hne, denoiseOp, validated]
    | none =>
      by_cases hl : (denoise s.rxRaw).length = 10
      · refine ⟨_, parseOp_device h hc hk hl, ?_⟩
        simp [h, parsed, recordKind, withDevice, validated, denoiseOp, raiseKind, setResult]
      · refine ⟨_, parseOp_record h hn hc hk hl, ?_⟩; rw [key _ _ (by simp)]; simp [h, denoiseOp, validated]

/-- What a parse leaves alone: the sequencer, the handle, `tx_buf`, `rx_raw`, the reporter, the environment, the events (R36, R152). -/
theorem parseOp_frame {s t : State} (h : parseOp s = .next t) :
    t.txBuf = s.txBuf ∧ t.rxRaw = s.rxRaw ∧ t.session = s.session ∧ t.rateIdx = s.rateIdx ∧ t.portOpen = s.portOpen ∧
      t.reporter = s.reporter ∧ t.answers = s.answers ∧ t.events = s.events ∧ t.params = s.params ∧ t.freeCount = s.freeCount := by
  obtain ⟨t', ht', -, -, -, -, hfr⟩ := parseOp_next s
  cases h.symm.trans ht'
  refine ⟨?_, ?_, ?_, ?_, ?_, ?_, ?_, ?_, ?_, ?_⟩ <;> rw [hfr]

end Sys2Proof.Machine
end

