-- ==== Sys2Proof/Laws/PerInstr.lean ====
section
/-! SUPPORT. One lemma per constructor of Instr: which rows have bytes on the wire, and how every frame begins (R80, R94). -/

namespace Sys2Proof.Laws.RowShape

open Machine

/-- An instruction has an encoding exactly when it is a wire row, and the bytes are the lone fill byte or a frame of at least 5 bytes
that starts `FD 46` (R80, R91, R94). -/
def Statement (i : Instr) : Prop :=
  (encode i = none ↔ i.direction = none) ∧
    ∀ bs, encode i = some bs → bs = [0xFF#8] ∨ (5 ≤ bs.length ∧ bs.take 2 = [0xFD#8, 0x46#8])

theorem startScan : Statement .startScan :=
  ⟨by simp [encode, Instr.direction], fun _ h => .inr (by cases h; decide +kernel)⟩

theorem continueScan : Statement .continueScan :=
  ⟨by simp [encode, Instr.direction], fun _ h => .inr (by cases h; decide +kernel)⟩

theorem endScan : Statement .endScan :=
  ⟨by simp [encode, Instr.direction], fun _ h => .inr (by cases h; decide +kernel)⟩

theorem deviceFound (serial : Word32) (busAddr : Byte) : Statement (.deviceFound serial  busAddr) :=
  ⟨by simp [encode, Instr.direction], fun _ h => .inr (by cases h; simp [deviceFrame, sealFrame, deviceBody, header, addrBroadcast, funcExt, crcBytes])⟩

theorem scanEnded (payload : List Byte) : Statement (.scanEnded payload) :=
  ⟨by simp [encode, Instr.direction], fun _ h => .inr (by cases h; simp [endedFrame, sealFrame, endedBody, header, addrBroadcast, funcExt, crcBytes])⟩

theorem idleFill : Statement .idleFill :=
  ⟨by simp [encode, Instr.direction], fun _ h => .inl (by cases h; rfl)⟩

theorem crcInit : Statement .crcInit :=
  ⟨by simp [encode, Instr.direction], fun _ h => by simp [encode] at h⟩

theorem crcXor (b : Byte) : Statement (.crcXor b) :=
  ⟨by simp [encode, Instr.direction], fun _ h => by simp [encode] at h⟩

theorem crcShift : Statement .crcShift :=
  ⟨by simp [encode, Instr.direction], fun _ h => by simp [encode] at h⟩

theorem crcByte (b : Byte) : Statement (.crcByte b) :=
  ⟨by simp [encode, Instr.direction], fun _ h => by simp [encode] at h⟩

theorem crcSeq (bytes : List Byte) : Statement (.crcSeq bytes) :=
  ⟨by simp [encode, Instr.direction], fun _ h => by simp [encode] at h⟩

theorem encBuild (a f s : Byte) : Statement (.encBuild a f s) :=
  ⟨by simp [encode, Instr.direction], fun _ h => by simp [encode] at h⟩

theorem decDenoise : Statement .decDenoise :=
  ⟨by simp [encode, Instr.direction], fun _ h => by simp [encode] at h⟩

theorem decValidate : Statement .decValidate :=
  ⟨by simp [encode, Instr.direction], fun _ h => by simp [encode] at h⟩

theorem decClassify : Statement .decClassify :=
  ⟨by simp [encode, Instr.direction], fun _ h => by simp [encode] at h⟩

theorem decExtract : Statement .decExtract :=
  ⟨by simp [encode, Instr.direction], fun _ h => by simp [encode] at h⟩

theorem decParse : Statement .decParse :=
  ⟨by simp [encode, Instr.direction], fun _ h => by simp [encode] at h⟩

theorem scanExchange (sub : Byte) : Statement (.scanExchange sub) :=
  ⟨by simp [encode, Instr.direction], fun _ h => by simp [encode] at h⟩

theorem xportOpen : Statement .xportOpen :=
  ⟨by simp [encode, Instr.direction], fun _ h => by simp [encode] at h⟩

theorem xportWrite : Statement .xportWrite :=
  ⟨by simp [encode, Instr.direction], fun _ h => by simp [encode] at h⟩

theorem xportSettle : Statement .xportSettle :=
  ⟨by simp [encode, Instr.direction], fun _ h => by simp [encode] at h⟩

theorem xportRecv : Statement .xportRecv :=
  ⟨by simp [encode, Instr.direction], fun _ h => by simp [encode] at h⟩

theorem xportClose : Statement .xportClose :=
  ⟨by simp [encode, Instr.direction], fun _ h => by simp [encode] at h⟩

theorem reportDevice : Statement .reportDevice :=
  ⟨by simp [encode, Instr.direction], fun _ h => by simp [encode] at h⟩

theorem diagEmit (k : DiagKind) : Statement (.diagEmit k) :=
  ⟨by simp [encode, Instr.direction], fun _ h => by simp [encode] at h⟩

end Sys2Proof.Laws.RowShape
end

