-- ==== Sys2Proof/Laws/Transport.lean ====
section
/-! SUPPORT. What the transport, report and diagnostic operations answer, and what a draw changes. -/

namespace Sys2Proof.Machine

/-- A draw changes the environment's answers and the count of free values, nothing else (R36, R211). -/
theorem drawOpen_state (s : State) :
    (drawOpen s).2 = { s with answers := (drawOpen s).2.answers, freeCount := (drawOpen s).2.freeCount } := by
  unfold drawOpen; split <;> rfl

/-- A draw changes the environment's answers and the count of free values, nothing else (R36, R212). -/
theorem drawWrite_state (s : State) :
    (drawWrite s).2 = { s with answers := (drawWrite s).2.answers, freeCount := (drawWrite s).2.freeCount } := by
  unfold drawWrite; split <;> rfl

/-- A draw changes the environment's answers and the count of free values, nothing else (R36, R214). -/
theorem drawReceive_state (s : State) :
    (drawReceive s).2 = { s with answers := (drawReceive s).2.answers, freeCount := (drawReceive s).2.freeCount } := by
  unfold drawReceive; split <;> rfl

/-- A draw looks at the environment's answers and the count of free values only (R17, D20). -/
theorem drawOpen_congr {s t : State} (ha : s.answers = t.answers) (hf : s.freeCount = t.freeCount) :
    (drawOpen s).1 = (drawOpen t).1 ∧ (drawOpen s).2.answers = (drawOpen t).2.answers ∧
      (drawOpen s).2.freeCount = (drawOpen t).2.freeCount := by
  unfold drawOpen; rw [ha, hf]; split <;> simp

/-- A draw looks at the environment's answers and the count of free values only (R17, D20). -/
theorem drawWrite_congr {s t : State} (ha : s.answers = t.answers) (hf : s.freeCount = t.freeCount) :
    (drawWrite s).1 = (drawWrite t).1 ∧ (drawWrite s).2.answers = (drawWrite t).2.answers ∧
      (drawWrite s).2.freeCount = (drawWrite t).2.freeCount := by
  unfold drawWrite; rw [ha, hf]; split <;> simp

/-- A draw looks at the environment's answers and the count of free values only (R17, D20). -/
theorem drawReceive_congr {s t : State} (ha : s.answers = t.answers) (hf : s.freeCount = t.freeCount) :
    (drawReceive s).1 = (drawReceive t).1 ∧ (drawReceive s).2.answers = (drawReceive t).2.answers ∧
      (drawReceive s).2.freeCount = (drawReceive t).2.freeCount := by
  unfold drawReceive; rw [ha, hf]; split <;> simp

/-- `require port_open == 1` where it holds. -/
theorem requirePort_of_open {s : State} (h : s.portOpen = true) (k : Answer) : requirePort s k = k := by
  simp [requirePort, h]

/-- `require port_open == 1` where it fails. -/
theorem requirePort_of_closed {s : State} (h : s.portOpen = false) (k : Answer) : requirePort s k = .fault .portNotOpen := by
  simp [requirePort, h]

/-- The eight rates (R11, R28). -/
theorem baudOf_of_lt {i : Fin 9} (h : i.val < 8) : ∃ baud, baudOf i = some baud ∧ baudTable[i.val]? = some baud := by
  have hl : i.val < baudTable.length := h
  exact ⟨baudTable[i.val], by simp [baudOf, hl], by simp [hl]⟩

/-- Below 8 the rate read is the table's entry, and nothing is drawn (R28). -/
theorem drawBaud_of_some {s : State} {baud : Nat} (h : baudOf s.rateIdx = some baud) : drawBaud s = (baud, s) := by
  simp [drawBaud, h]

/-- At 8 the rate read is a free value (log entry 17). -/
theorem drawBaud_of_eight {s : State} (h : s.rateIdx.val = 8) :
    drawBaud s = (baudAt (Config.rateOffTable s.freeCount), { s with freeCount := s.freeCount + 1 }) := by
  have hb : baudOf s.rateIdx = none := by simp [baudOf, h, baudTable]
  simp [drawBaud, hb]

/-- Reading the rate changes the count of free values at most (R36). -/
theorem drawBaud_state (s : State) : (drawBaud s).2 = { s with freeCount := (drawBaud s).2.freeCount } := by
  unfold drawBaud; split <;> rfl

/-- How many free values reading the rate draws. -/
theorem drawBaud_freeCount (s : State) : (drawBaud s).2.freeCount = s.freeCount + if s.rateIdx.val = 8 then 1 else 0 := by
  by_cases h : s.rateIdx.val = 8
  · simp [drawBaud_of_eight h, h]
  · obtain ⟨baud, hb, -⟩ := baudOf_of_lt (i := s.rateIdx) (by omega)
    simp [drawBaud_of_some hb, h]

/-- The rate read is one of the eight (R211). -/
theorem drawBaud_mem (s : State) : (drawBaud s).1 ∈ baudTable := by
  by_cases h : s.rateIdx.val = 8
  · rw [drawBaud_of_eight h]; exact List.getElem_mem _
  · obtain ⟨baud, hb, ht⟩ := baudOf_of_lt (i := s.rateIdx) (by omega)
    rw [drawBaud_of_some hb]; exact List.mem_of_getElem? ht

/-- The rate read is the table's entry where there is one (R28). -/
theorem drawBaud_eq {s : State} {baud : Nat} (h : baudTable[s.rateIdx.val]? = some baud) : (drawBaud s).1 = baud := by
  rw [drawBaud_of_some (by exact h)]

/-- Everything `XPORT.OPEN` can do while no handle is held: one event with the three operands and the answer drawn, and `port_open` set on
`Opened` only (R211). -/
theorem openOp_eq {s : State} (hp : s.portOpen = false) :
    openOp s =
      .next { (drawOpen (drawBaud s).2).2 with
        portOpen := decide ((drawOpen (drawBaud s).2).1 = .opened)
        events := s.events ++ [.opening s.params.portId (drawBaud s).1 s.params.readTimeout (drawOpen (drawBaud s).2).1]
        result := if (drawOpen (drawBaud s).2).1 = .opened then .opened else .openError } := by
  rw [openOp, if_neg (by simp [hp])]
  have hb := drawBaud_state s
  rcases hd : drawOpen (drawBaud s).2 with ⟨r, d⟩
  have he : d = { (drawBaud s).2 with answers := d.answers, freeCount := d.freeCount } := by
    simpa [hd] using drawOpen_state (drawBaud s).2
  rw [he, hb]
  simp only [hd]
  rw [he, hb]
  cases r <;> simp [emit, setResult, setPort, hp]

/-- The same while a rate is left: one event with the three operands and the answer drawn, and
`port_open` set on `Opened` only (R211). -/
theorem openOp_closed {s : State} {baud : Nat} (hp : s.portOpen = false) (hb : baudOf s.rateIdx = some baud) :
    openOp s =
      .next { (drawOpen s).2 with
        portOpen := decide ((drawOpen s).1 = .opened)
        events := s.events ++ [.opening s.params.portId baud s.params.readTimeout (drawOpen s).1]
        result := if (drawOpen s).1 = .opened then .opened else .openError } := by
  rw [openOp_eq hp, drawBaud_of_some hb]

/-- Everything `XPORT.WRITE` can do while a handle is held: one event with the five bytes and the answer drawn (R212). -/
theorem writeOp_open {s : State} (hp : s.portOpen = true) :
    writeOp s =
      .next { (drawWrite s).2 with
        events := s.events ++ [.tx s.txBuf.toBytes (drawWrite s).1]
        result := if (drawWrite s).1 = .written then .written else .writeError } := by
  rw [writeOp, requirePort_of_open hp]
  rcases hd : drawWrite s with ⟨w, d⟩
  have he : d = { s with answers := d.answers, freeCount := d.freeCount } := by simpa [hd] using drawWrite_state s
  rw [he]
  cases w <;> rfl

/-- Everything `XPORT.RECV` can do while a handle is held (R214). -/
theorem recvOp_open {s : State} (hp : s.portOpen = true) : recvOp s = .next (deliver (drawReceive s).1 (drawReceive s).2) := by
  rw [recvOp, requirePort_of_open hp]

/-- `XPORT.CLOSE` while a handle is held (R215). -/
theorem closeOp_open {s : State} (hp : s.portOpen = true) : closeOp s = .next (emit .close (setPort false s)) :=
  requirePort_of_open hp _

/-- `REPORT.DEVICE` of a found device (R222, R223). -/
theorem reportOp_found {s : State} {n : Word32} {a : Byte} (hk : s.kind = .deviceFound) (hn : s.serial = some n)
    (ha : s.busAddr = some a) : reportOp s = .next (emit (.report n a) { s with reporter := s.reporter.accept n a }) := by
  simp [reportOp, hk, hn, ha]

/-- `DIAG.EMIT` of an absorbed error carries the bytes received (R225). -/
theorem diagOp_absorbed {s : State} {k : DiagKind} {c : Kind} (h : classOf c = .absorbed k) :
    diagOp k s = .next (emit (.diag k (.bytes s.rxRaw)) s) := by
  cases c <;> simp [classOf] at h <;> subst h <;> rfl

/-- `DIAG.EMIT` of a transport kind carries the rate read (R225). -/
theorem diagOp_rate {k : DiagKind} (h : k = .transportOpenError ∨ k = .transportWriteError) (s : State) :
    diagOp k s = .next (emit (.diag k (.rate (drawBaud s).1)) (drawBaud s).2) := by
  rcases h with rfl | rfl <;> rfl

/-- `DIAG.EMIT` of a transport kind carries the session's rate (R225). -/
theorem diagOp_transport {i : Fin 9} {k : DiagKind} {baud : Nat} (h : k = .transportOpenError ∨ k = .transportWriteError)
    (hb : baudOf i = some baud) {s : State} (hi : s.rateIdx = i) : diagOp k s = .next (emit (.diag k (.rate baud)) s) := by
  rw [diagOp_rate h, drawBaud_of_some (hi ▸ hb)]

end Sys2Proof.Machine
end

