-- ==== Sys2Proof/Laws/Scan.lean ====
section
/-! SUPPORT. What the exchange and the sequencer's reactions answer, once and for all. -/

namespace Sys2Proof.Machine

/-- A receive and its parse while a handle is held (R185 steps 5 and 6): always a next state. -/
theorem receiveAndParse_open {s : State} (hp : s.portOpen = true) (raw : List Byte) :
    receiveAndParse raw s = parseOp (deliver raw s) :=
  requirePort_of_open hp _

/-- The state after the build and the write of an exchange (R185 steps 1 and 2). -/
def commanded (sub : Byte) (s : State) : State :=
  { s with
    crcAcc := checksum [addrBroadcast, funcExt, sub], crcBit := 8, txBuf := buildFrame addrBroadcast funcExt sub
    answers := (drawWrite s).2.answers, freeCount := (drawWrite s).2.freeCount
    events := s.events ++ [.tx (buildFrame addrBroadcast funcExt sub).toBytes (drawWrite s).1]
    result := if (drawWrite s).1 = .written then .written else .writeError }

/-! `commanded`, field by field: what it leaves alone. -/

@[simp] theorem commanded_rxRaw (sub : Byte) (s : State) : (commanded sub s).rxRaw = s.rxRaw := rfl
@[simp] theorem commanded_frm (sub : Byte) (s : State) : (commanded sub s).frm = s.frm := rfl
@[simp] theorem commanded_declared (sub : Byte) (s : State) : (commanded sub s).declared = s.declared := rfl
@[simp] theorem commanded_computed (sub : Byte) (s : State) : (commanded sub s).computed = s.computed := rfl
@[simp] theorem commanded_crcOk (sub : Byte) (s : State) : (commanded sub s).crcOk = s.crcOk := rfl
@[simp] theorem commanded_kind (sub : Byte) (s : State) : (commanded sub s).kind = s.kind := rfl
@[simp] theorem commanded_serial (sub : Byte) (s : State) : (commanded sub s).serial = s.serial := rfl
@[simp] theorem commanded_busAddr (sub : Byte) (s : State) : (commanded sub s).busAddr = s.busAddr := rfl
@[simp] theorem commanded_session (sub : Byte) (s : State) : (commanded sub s).session = s.session := rfl
@[simp] theorem commanded_rateIdx (sub : Byte) (s : State) : (commanded sub s).rateIdx = s.rateIdx := rfl
@[simp] theorem commanded_portOpen (sub : Byte) (s : State) : (commanded sub s).portOpen = s.portOpen := rfl
@[simp] theorem commanded_reporter (sub : Byte) (s : State) : (commanded sub s).reporter = s.reporter := rfl
@[simp] theorem commanded_params (sub : Byte) (s : State) : (commanded sub s).params = s.params := rfl

/-- The build and the write of an exchange (R185 steps 1 and 2). -/
theorem writeOp_buildOp {s : State} (hp : s.portOpen = true) (sub : Byte) :
    writeOp (buildOp addrBroadcast funcExt sub s) = .next (commanded sub s) := by
  have hc := drawWrite_congr (s := buildOp addrBroadcast funcExt sub s) (t := s) (by rw [buildOp_eq]) (by rw [buildOp_eq])
  rw [writeOp_open (by rw [buildOp_eq]; exact hp), drawWrite_state, hc.1, hc.2.1, hc.2.2, buildOp_eq]
  rfl

/-- An exchange whose write fails: the event, no settle, no receive, no parse (R185 step 3, R188). -/
theorem exchangeOp_writeError {sub : Byte} {s : State} (hp : s.portOpen = true) (hw : (drawWrite s).1 = .writeError) :
    exchangeOp sub s = .next (setResult .transportWriteError (commanded sub s)) := by
  rw [exchangeOp, requirePort_of_open hp, writeOp_buildOp hp, andThen_next, if_pos (by simp [commanded, hw])]

/-- An exchange whose write succeeds goes on to settle, receive and parse (R185). -/
theorem exchangeOp_written {sub : Byte} {s : State} (hp : s.portOpen = true) (hw : (drawWrite s).1 = .written) :
    exchangeOp sub s = readBack (commanded sub s) := by
  rw [exchangeOp, requirePort_of_open hp, writeOp_buildOp hp, andThen_next, if_neg (by simp [commanded, hw])]

/-- The state after the settle and the receive of an exchange (R185 steps 4 and 5). -/
def heard (s : State) : State :=
  let raw := takeAtMost (drawReceive s).1 s.params.rxMax
  { s with
    rxRaw := raw, answers := (drawReceive s).2.answers, freeCount := (drawReceive s).2.freeCount
    events := s.events ++ [.settle s.params.settleInterval, .rx raw] }

/-! `heard`, field by field: what it leaves alone. -/

@[simp] theorem heard_crcAcc (s : State) : (heard s).crcAcc = s.crcAcc := rfl
@[simp] theorem heard_crcBit (s : State) : (heard s).crcBit = s.crcBit := rfl
@[simp] theorem heard_txBuf (s : State) : (heard s).txBuf = s.txBuf := rfl
@[simp] theorem heard_frm (s : State) : (heard s).frm = s.frm := rfl
@[simp] theorem heard_declared (s : State) : (heard s).declared = s.declared := rfl
@[simp] theorem heard_computed (s : State) : (heard s).computed = s.computed := rfl
@[simp] theorem heard_crcOk (s : State) : (heard s).crcOk = s.crcOk := rfl
@[simp] theorem heard_kind (s : State) : (heard s).kind = s.kind := rfl
@[simp] theorem heard_serial (s : State) : (heard s).serial = s.serial := rfl
@[simp] theorem heard_busAddr (s : State) : (heard s).busAddr = s.busAddr := rfl
@[simp] theorem heard_session (s : State) : (heard s).session = s.session := rfl
@[simp] theorem heard_rateIdx (s : State) : (heard s).rateIdx = s.rateIdx := rfl
@[simp] theorem heard_portOpen (s : State) : (heard s).portOpen = s.portOpen := rfl
@[simp] theorem heard_reporter (s : State) : (heard s).reporter = s.reporter := rfl
@[simp] theorem heard_params (s : State) : (heard s).params = s.params := rfl
@[simp] theorem heard_result (s : State) : (heard s).result = s.result := rfl

/-- What a receive leaves in `rx_raw` stays within the bound (R214). -/
theorem heard_rxRaw_le (s : State) : (heard s).rxRaw.length ≤ s.params.rxMax := takeAtMost_length_le _ _

/-- The second half of an exchange while a handle is held: settle, receive, and the parse of what came (R185 steps 4 to 7). -/
theorem readBack_open {s : State} (hp : s.portOpen = true) : readBack s = parseOp (heard s) := by
  have hc := drawReceive_congr (s := settleOp s) (t := s) rfl rfl
  have h := drawReceive_state (settleOp s)
  have hr : readBack s = receiveAndParse (drawReceive (settleOp s)).1 (drawReceive (settleOp s)).2 := rfl
  rw [hr, receiveAndParse_open (by rw [h]; exact hp), deliver, h, hc.1, hc.2.1, hc.2.2]
  simp [emit, settleOp, heard]

/-- The sequencer's reaction to a terminal kind (R189, R195). -/
theorem actOnKind_terminal {s : State} (h : classOf s.kind = .terminal) : actOnKind s = .next (setSession .ended s) := by
  simp [actOnKind, h]

/-- The sequencer's reaction to a device (R190, R193). -/
theorem actOnKind_found {s : State} {n : Word32} {a : Byte} (hk : s.kind = .deviceFound) (hn : s.serial = some n)
    (ha : s.busAddr = some a) :
    actOnKind s = .next (setSession .continuing (emit (.report n a) { s with reporter := s.reporter.accept n a })) := by
  simp [actOnKind, hk, classOf, reportOp_found hk hn ha]

/-- The sequencer's reaction to an absorbed error (R191, R194). -/
theorem actOnKind_absorbed {s : State} {k : DiagKind} (h : classOf s.kind = .absorbed k) :
    actOnKind s = .next (setSession .continuing (emit (.diag k (.bytes s.rxRaw)) s)) := by
  simp [actOnKind, h, diagOp_absorbed h]

/-- The reaction to a failed write (R188). -/
theorem writeFailed_eq {s : State} {baud : Nat} (hb : baudOf s.rateIdx = some baud) :
    writeFailed s = .next (setSession .ended (emit (.diag .transportWriteError (.rate baud)) s)) := by
  rw [writeFailed, diagOp_transport (.inr rfl) hb rfl, andThen_next]

/-- The reaction to a failed write at any rate index (R188). -/
theorem writeFailed_rate (s : State) :
    writeFailed s = .next (setSession .ended (emit (.diag .transportWriteError (.rate (drawBaud s).1)) (drawBaud s).2)) := by
  rw [writeFailed, diagOp_rate (.inr rfl), andThen_next]

/-- The reaction in `Started` is the reaction in the continue loop (R190 to R194, D3). -/
theorem startedTransition_eq (s : State) : startedTransition s = actOnKind s := rfl

/-- `rate_idx` below 8 counts up by one (R198). -/
theorem nextRate_of_lt {i : Fin 9} (h : i.val < 8) : (nextRate i).val = i.val + 1 := by simp [nextRate, h]

/-- `rate_idx` stops at 8 (R31). -/
theorem nextRate_of_eight {i : Fin 9} (h : i.val = 8) : nextRate i = i := by simp [nextRate, h]

end Sys2Proof.Machine
end

