-- ==== Sys2Proof/Laws/Step.lean ====
section
/-! SUPPORT. Everything the two exchanging transitions can do, one lemma per outcome of the environment's answers, and the step in each control
state: later proofs cite these and unfold no transition. -/

namespace Sys2Proof.Machine

/-- The state after an open that succeeded (R186 steps 1 to 3). -/
def openedAt (baud : Nat) (s : State) : State :=
  { s with
    portOpen := true, answers := (drawOpen s).2.answers, freeCount := (drawOpen s).2.freeCount
    events := s.events ++ [.opening s.params.portId baud s.params.readTimeout .opened], result := .opened }

/-- The state after an open that failed and its diagnostic (R187). -/
def skippedAt (baud : Nat) (s : State) : State :=
  { s with
    session := .ended, answers := (drawOpen s).2.answers, freeCount := (drawOpen s).2.freeCount
    events := s.events ++
      [.opening s.params.portId baud s.params.readTimeout .openError, .diag .transportOpenError (.rate baud)]
    result := .openError }

/-- The state after an exchange whose write failed, and its diagnostic (R188). -/
def cutShortAt (baud : Nat) (sub : Byte) (s : State) : State :=
  { commanded sub s with
    session := .ended, result := .transportWriteError
    events := (commanded sub s).events ++ [.diag .transportWriteError (.rate baud)] }

/-! `openedAt`, field by field: what it leaves alone. -/

@[simp] theorem openedAt_crcAcc (baud : Nat) (s : State) : (openedAt baud s).crcAcc = s.crcAcc := rfl
@[simp] theorem openedAt_crcBit (baud : Nat) (s : State) : (openedAt baud s).crcBit = s.crcBit := rfl
@[simp] theorem openedAt_txBuf (baud : Nat) (s : State) : (openedAt baud s).txBuf = s.txBuf := rfl
@[simp] theorem openedAt_rxRaw (baud : Nat) (s : State) : (openedAt baud s).rxRaw = s.rxRaw := rfl
@[simp] theorem openedAt_frm (baud : Nat) (s : State) : (openedAt baud s).frm = s.frm := rfl
@[simp] theorem openedAt_declared (baud : Nat) (s : State) : (openedAt baud s).declared = s.declared := rfl
@[simp] theorem openedAt_computed (baud : Nat) (s : State) : (openedAt baud s).computed = s.computed := rfl
@[simp] theorem openedAt_crcOk (baud : Nat) (s : State) : (openedAt baud s).crcOk = s.crcOk := rfl
@[simp] theorem openedAt_kind (baud : Nat) (s : State) : (openedAt baud s).kind = s.kind := rfl
@[simp] theorem openedAt_serial (baud : Nat) (s : State) : (openedAt baud s).serial = s.serial := rfl
@[simp] theorem openedAt_busAddr (baud : Nat) (s : State) : (openedAt baud s).busAddr = s.busAddr := rfl
@[simp] theorem openedAt_session (baud : Nat) (s : State) : (openedAt baud s).session = s.session := rfl
@[simp] theorem openedAt_rateIdx (baud : Nat) (s : State) : (openedAt baud s).rateIdx = s.rateIdx := rfl
@[simp] theorem openedAt_reporter (baud : Nat) (s : State) : (openedAt baud s).reporter = s.reporter := rfl
@[simp] theorem openedAt_params (baud : Nat) (s : State) : (openedAt baud s).params = s.params := rfl

/-! `skippedAt`, field by field: what it leaves alone. -/

@[simp] theorem skippedAt_crcAcc (baud : Nat) (s : State) : (skippedAt baud s).crcAcc = s.crcAcc := rfl
@[simp] theorem skippedAt_crcBit (baud : Nat) (s : State) : (skippedAt baud s).crcBit = s.crcBit := rfl
@[simp] theorem skippedAt_txBuf (baud : Nat) (s : State) : (skippedAt baud s).txBuf = s.txBuf := rfl
@[simp] theorem skippedAt_rxRaw (baud : Nat) (s : State) : (skippedAt baud s).rxRaw = s.rxRaw := rfl
@[simp] theorem skippedAt_frm (baud : Nat) (s : State) : (skippedAt baud s).frm = s.frm := rfl
@[simp] theorem skippedAt_declared (baud : Nat) (s : State) : (skippedAt baud s).declared = s.declared := rfl
@[simp] theorem skippedAt_computed (baud : Nat) (s : State) : (skippedAt baud s).computed = s.computed := rfl
@[simp] theorem skippedAt_crcOk (baud : Nat) (s : State) : (skippedAt baud s).crcOk = s.crcOk := rfl
@[simp] theorem skippedAt_kind (baud : Nat) (s : State) : (skippedAt baud s).kind = s.kind := rfl
@[simp] theorem skippedAt_serial (baud : Nat) (s : State) : (skippedAt baud s).serial = s.serial := rfl
@[simp] theorem skippedAt_busAddr (baud : Nat) (s : State) : (skippedAt baud s).busAddr = s.busAddr := rfl
@[simp] theorem skippedAt_rateIdx (baud : Nat) (s : State) : (skippedAt baud s).rateIdx = s.rateIdx := rfl
@[simp] theorem skippedAt_portOpen (baud : Nat) (s : State) : (skippedAt baud s).portOpen = s.portOpen := rfl
@[simp] theorem skippedAt_reporter (baud : Nat) (s : State) : (skippedAt baud s).reporter = s.reporter := rfl
@[simp] theorem skippedAt_params (baud : Nat) (s : State) : (skippedAt baud s).params = s.params := rfl

/-! `cutShortAt`, field by field: what it leaves alone. -/

@[simp] theorem cutShortAt_rxRaw (baud : Nat) (sub : Byte) (s : State) : (cutShortAt baud sub s).rxRaw = s.rxRaw := rfl
@[simp] theorem cutShortAt_frm (baud : Nat) (sub : Byte) (s : State) : (cutShortAt baud sub s).frm = s.frm := rfl
@[simp] theorem cutShortAt_declared (baud : Nat) (sub : Byte) (s : State) : (cutShortAt baud sub s).declared = s.declared := rfl
@[simp] theorem cutShortAt_computed (baud : Nat) (sub : Byte) (s : State) : (cutShortAt baud sub s).computed = s.computed := rfl
@[simp] theorem cutShortAt_crcOk (baud : Nat) (sub : Byte) (s : State) : (cutShortAt baud sub s).crcOk = s.crcOk := rfl
@[simp] theorem cutShortAt_kind (baud : Nat) (sub : Byte) (s : State) : (cutShortAt baud sub s).kind = s.kind := rfl
@[simp] theorem cutShortAt_serial (baud : Nat) (sub : Byte) (s : State) : (cutShortAt baud sub s).serial = s.serial := rfl
@[simp] theorem cutShortAt_busAddr (baud : Nat) (sub : Byte) (s : State) : (cutShortAt baud sub s).busAddr = s.busAddr := rfl
@[simp] theorem cutShortAt_rateIdx (baud : Nat) (sub : Byte) (s : State) : (cutShortAt baud sub s).rateIdx = s.rateIdx := rfl
@[simp] theorem cutShortAt_portOpen (baud : Nat) (sub : Byte) (s : State) : (cutShortAt baud sub s).portOpen = s.portOpen := rfl
@[simp] theorem cutShortAt_reporter (baud : Nat) (sub : Byte) (s : State) : (cutShortAt baud sub s).reporter = s.reporter := rfl
@[simp] theorem cutShortAt_params (baud : Nat) (sub : Byte) (s : State) : (cutShortAt baud sub s).params = s.params := rfl

@[simp] theorem openedAt_portOpen (baud : Nat) (s : State) : (openedAt baud s).portOpen = true := rfl
@[simp] theorem skippedAt_session (baud : Nat) (s : State) : (skippedAt baud s).session = .ended := rfl
@[simp] theorem cutShortAt_session (baud : Nat) (sub : Byte) (s : State) : (cutShortAt baud sub s).session = .ended := rfl

/-- The transition out of `Idle` after `OpenError` (R187). -/
theorem startTransition_openError {s : State} {baud : Nat} (hs : s.session = .idle) (hp : s.portOpen = false)
    (hb : baudOf s.rateIdx = some baud) (hr : s.rateIdx.val < 8) (hd : (drawOpen s).1 = .openError) :
    startTransition s = .next (skippedAt baud s) := by
  rw [startTransition, if_pos ⟨hs, hr⟩, openOp_closed hp hb, andThen_next, drawOpen_state]
  simp only [hd, reduceCtorEq, if_false, if_true]
  rw [diagOp_transport (.inl rfl) hb (by rfl), andThen_next]
  simp [emit, setSession, skippedAt, hp]

/-- The transition out of `Idle` after `Opened` goes on with the start-scan exchange (R186). -/
theorem startTransition_opened {s : State} {baud : Nat} (hs : s.session = .idle) (hp : s.portOpen = false)
    (hb : baudOf s.rateIdx = some baud) (hr : s.rateIdx.val < 8) (hd : (drawOpen s).1 = .opened) :
    startTransition s =
      andThen (exchangeOp subStart (openedAt baud s)) fun x =>
        if x.result = .transportWriteError then writeFailed x else .next (setSession .started x) := by
  rw [startTransition, if_pos ⟨hs, hr⟩, openOp_closed hp hb, andThen_next, drawOpen_state]
  simp only [hd, reduceCtorEq, if_false, if_true, decide_true]
  rfl

/-- An exchange whose write fails, with the reaction to it, in either transition (R188). -/
theorem exchange_cutShort {s : State} {baud : Nat} {sub : Byte} (hp : s.portOpen = true) (hb : baudOf s.rateIdx = some baud)
    (hw : (drawWrite s).1 = .writeError) (f : State → Answer) :
    (andThen (exchangeOp sub s) fun x => if x.result = .transportWriteError then writeFailed x else f x) =
      .next (cutShortAt baud sub s) := by
  rw [exchangeOp_writeError hp hw, andThen_next, if_pos (by simp), writeFailed_eq (baud := baud) (by simpa [commanded] using hb)]
  rfl

/-- The same at rate index 8, which no run reaches there: the diagnostic carries a free value (log entry 17). -/
theorem exchange_cutShort_off {s : State} {sub : Byte} (hp : s.portOpen = true) (hr : s.rateIdx.val = 8)
    (hw : (drawWrite s).1 = .writeError) (f : State → Answer) :
    (andThen (exchangeOp sub s) fun x => if x.result = .transportWriteError then writeFailed x else f x) =
      .next { cutShortAt (baudAt (Config.rateOffTable (commanded sub s).freeCount)) sub s with
        freeCount := (commanded sub s).freeCount + 1 } := by
  rw [exchangeOp_writeError hp hw, andThen_next, if_pos (by simp), writeFailed_rate, drawBaud_of_eight (by simpa [commanded] using hr)]
  rfl

/-- An exchange whose write succeeds, with the reaction to it, in either transition: the parse of what was heard decides (R186, R192). -/
theorem exchange_parsed {s : State} {sub : Byte} (hp : s.portOpen = true) (hw : (drawWrite s).1 = .written) (f : State → Answer) :
    ∃ t, parseOp (heard (commanded sub s)) = .next t ∧ t.result = .raised t.kind ∧
      (andThen (exchangeOp sub s) fun x => if x.result = .transportWriteError then writeFailed x else f x) = f t := by
  obtain ⟨t, ht, hk, -⟩ := parseOp_next (heard (commanded sub s))
  refine ⟨t, ht, hk, ?_⟩
  rw [exchangeOp_written hp hw, readBack_open (by simpa [commanded] using hp), ht, andThen_next, if_neg (by simp [hk])]

/-- The step in `Idle` with a rate left (R186). -/
theorem step_idle {s : State} (hs : s.session = .idle) (hr : s.rateIdx.val < 8) : step s = startTransition s := by
  simp [step, transition, hs, numRates, hr, exec, execStartScan]

/-- The step in `Idle` with no rate left (R199). -/
theorem step_swept {s : State} (hs : s.session = .idle) (hr : s.rateIdx.val = 8) : step s = .fault .sweepDone := by
  simp [step, transition, hs, numRates, hr]

/-- The step in `Started` (R189 to R191). -/
theorem step_started {s : State} (hs : s.session = .started) : step s = actOnKind s := by
  simp only [step, transition, hs]; rfl

/-- The step in `Continuing` (R192). -/
theorem step_continuing {s : State} (hs : s.session = .continuing) :
    step s = andThen (exchangeOp subContinue s) fun x => if x.result = .transportWriteError then writeFailed x else actOnKind x := by
  simp only [step, transition, hs, exec, execContinueScan, continueTransition, if_true]

/-- The step in `Ended` (R198). -/
theorem step_ended {s : State} (hs : s.session = .ended) :
    step s = .next (if s.portOpen = true then advanceRate (emit .close (setPort false s)) else advanceRate s) := by
  simp only [step, transition, hs, endedTransition, exec, execXportClose]
  split
  · rename_i h; rw [closeOp_open h, andThen_next]
  · rfl

/-- Everything a step that answers a next state can have done (R186 to R198): one constructor per outcome of the environment's answers and of the
parse. -/
inductive StepCase (s t : State) : Prop where
  /-- R187. -/
  | openError (baud : Nat) (hs : s.session = .idle) (hp : s.portOpen = false) (hb : baudOf s.rateIdx = some baud)
      (hd : (drawOpen s).1 = .openError) (ht : t = skippedAt baud s)
  /-- R186, R188. -/
  | startCut (baud : Nat) (hs : s.session = .idle) (hp : s.portOpen = false) (hb : baudOf s.rateIdx = some baud)
      (hd : (drawOpen s).1 = .opened) (hw : (drawWrite (openedAt baud s)).1 = .writeError)
      (ht : t = cutShortAt baud subStart (openedAt baud s))
  /-- R186. -/
  | startParsed (baud : Nat) (u : State) (hs : s.session = .idle) (hp : s.portOpen = false) (hb : baudOf s.rateIdx = some baud)
      (hd : (drawOpen s).1 = .opened) (hw : (drawWrite (openedAt baud s)).1 = .written)
      (hu : parseOp (heard (commanded subStart (openedAt baud s))) = .next u) (ht : t = setSession .started u)
  /-- R189 to R191. -/
  | reacted (hs : s.session = .started) (ht : actOnKind s = .next t)
  /-- R188, R192. -/
  | continueCut (baud : Nat) (hs : s.session = .continuing) (hp : s.portOpen = true) (hb : baudOf s.rateIdx = some baud)
      (hw : (drawWrite s).1 = .writeError) (ht : t = cutShortAt baud subContinue s)
  /-- R188, R192 at rate index 8, which no run reaches there (log entry 17). -/
  | continueCutOff (hs : s.session = .continuing) (hp : s.portOpen = true) (hr : s.rateIdx.val = 8)
      (hw : (drawWrite s).1 = .writeError)
      (ht : t = { cutShortAt (baudAt (Config.rateOffTable (commanded subContinue s).freeCount)) subContinue s with
        freeCount := (commanded subContinue s).freeCount + 1 })
  /-- R192 to R195. -/
  | continueParsed (u : State) (hs : s.session = .continuing) (hp : s.portOpen = true) (hw : (drawWrite s).1 = .written)
      (hu : parseOp (heard (commanded subContinue s)) = .next u) (ht : actOnKind u = .next t)
  /-- R198. -/
  | ended (hs : s.session = .ended)
      (ht : t = if s.portOpen = true then advanceRate (emit .close (setPort false s)) else advanceRate s)

/-- What a step did, from its answer. -/
theorem step_cases {s t : State} (h : step s = .next t) : StepCase s t := by
  cases hs : s.session with
  | idle =>
    by_cases hr : s.rateIdx.val < 8
    · obtain ⟨baud, hb, -⟩ := baudOf_of_lt hr
      rw [step_idle hs hr] at h
      cases hp : s.portOpen with
      | true => simp [startTransition, hs, numRates, hr, openOp, hp] at h
      | false =>
        cases hd : (drawOpen s).1 with
        | openError =>
          rw [startTransition_openError hs hp hb hr hd] at h
          exact .openError baud hs hp hb hd (by simpa using h.symm)
        | opened =>
          rw [startTransition_opened hs hp hb hr hd] at h
          cases hw : (drawWrite (openedAt baud s)).1 with
          | writeError =>
            rw [exchange_cutShort (s := openedAt baud s) rfl hb hw] at h
            exact .startCut baud hs hp hb hd hw (by simpa using h.symm)
          | written =>
            obtain ⟨u, hu, -, he⟩ := exchange_parsed (s := openedAt baud s) (sub := subStart) rfl hw fun x => .next (setSession .started x)
            rw [he] at h
            exact .startParsed baud u hs hp hb hd hw hu (by simpa using h.symm)
    · rw [step_swept hs (by omega)] at h; simp at h
  | started => exact .reacted hs (step_started hs ▸ h)
  | continuing =>
    rw [step_continuing hs] at h
    cases hp : s.portOpen with
    | false => simp [exchangeOp, requirePort, hp] at h
    | true =>
      cases hw : (drawWrite s).1 with
      | writeError =>
        by_cases hr : s.rateIdx.val = 8
        · rw [exchange_cutShort_off hp hr hw] at h
          exact .continueCutOff hs hp hr hw (by simpa using h.symm)
        · obtain ⟨baud, hb, -⟩ := baudOf_of_lt (i := s.rateIdx) (by omega)
          rw [exchange_cutShort hp hb hw] at h
          exact .continueCut baud hs hp hb hw (by simpa using h.symm)
      | written =>
        obtain ⟨u, hu, -, he⟩ := exchange_parsed (sub := subContinue) hp hw actOnKind
        rw [he] at h
        exact .continueParsed u hs hp hw hu h
  | ended =>
    rw [step_ended hs] at h
    exact .ended hs (by simpa using h.symm)

/-- Everything the sequencer's reaction to a kind can have done (R189 to R195). -/
theorem actOnKind_cases {s t : State} (h : actOnKind s = .next t) :
    (classOf s.kind = .terminal ∧ t = setSession .ended s) ∨
    (∃ n a, s.kind = .deviceFound ∧ s.serial = some n ∧ s.busAddr = some a ∧
      t = setSession .continuing (emit (.report n a) { s with reporter := s.reporter.accept n a })) ∨
    (∃ k, classOf s.kind = .absorbed k ∧ t = setSession .continuing (emit (.diag k (.bytes s.rxRaw)) s)) := by
  cases hc : classOf s.kind with
  | terminal => rw [actOnKind_terminal hc] at h; exact .inl ⟨rfl, by simpa using h.symm⟩
  | absorbed k => rw [actOnKind_absorbed hc] at h; exact .inr (.inr ⟨k, rfl, by simpa using h.symm⟩)
  | found =>
    have hk : s.kind = .deviceFound := by cases h' : s.kind <;> simp [h', classOf] at hc; rfl
    rcases hn : s.serial with _ | n
    · simp [actOnKind, hk, classOf, reportOp, hn] at h
    rcases ha : s.busAddr with _ | a
    · simp [actOnKind, hk, classOf, reportOp, hn, ha] at h
    rw [actOnKind_found hk hn ha, Host.Outcome.next.injEq] at h
    exact .inr (.inl ⟨n, a, hk, rfl, rfl, by rw [← h, hn, ha]⟩)

end Sys2Proof.Machine
end

