-- ==== Sys2Proof/Laws/Trace.lean ====
section
/-! SUPPORT. The trace grammar of Safety, taken apart once: which events may come in which phase. -/

namespace Sys2Proof.Safety

open Machine

/-- One event of a trace: one constructor per event that may come (R202). -/
inductive PhaseStep (p : Params) : Phase → Event → Phase → Prop where
  | opened (r baud : Nat) (hb : baudTable[r]? = some baud) :
    PhaseStep p (.between r) (.opening p.portId baud p.readTimeout .opened) (.ready r 0x01#8)
  | openError (r baud : Nat) (hb : baudTable[r]? = some baud) :
    PhaseStep p (.between r) (.opening p.portId baud p.readTimeout .openError) (.openFailed r)
  | skipped (r baud : Nat) (hb : baudTable[r]? = some baud) :
    PhaseStep p (.openFailed r) (.diag .transportOpenError (.rate baud)) (.between (r + 1))
  | written (r : Nat) (sub : Byte) : PhaseStep p (.ready r sub) (.tx (commandFrame sub) .written) (.sent r)
  | writeError (r : Nat) (sub : Byte) : PhaseStep p (.ready r sub) (.tx (commandFrame sub) .writeError) (.writeFailed r)
  | settled (r : Nat) : PhaseStep p (.sent r) (.settle p.settleInterval) (.settled r)
  | terminal (r : Nat) (raw : List Byte) (hl : raw.length ≤ p.rxMax) (hc : classOf (parseTree raw) = .terminal) :
    PhaseStep p (.settled r) (.rx raw) (.closing r)
  | answered (r : Nat) (raw : List Byte) (hl : raw.length ≤ p.rxMax) (hc : classOf (parseTree raw) ≠ .terminal) :
    PhaseStep p (.settled r) (.rx raw) (.answered r raw)
  | reported (r : Nat) (raw : List Byte) (hk : parseTree raw = .deviceFound) :
    PhaseStep p (.answered r raw) (.report (treeSerial raw) (treeBusAddr raw)) (.ready r 0x02#8)
  | diagnosed (r : Nat) (raw : List Byte) (k : DiagKind) (hk : classOf (parseTree raw) = .absorbed k) :
    PhaseStep p (.answered r raw) (.diag k (.bytes raw)) (.ready r 0x02#8)
  | writeDiagnosed (r baud : Nat) (hb : baudTable[r]? = some baud) :
    PhaseStep p (.writeFailed r) (.diag .transportWriteError (.rate baud)) (.closing r)
  | closed (r : Nat) : PhaseStep p (.closing r) .close (.between (r + 1))

/-- The grammar's function allows exactly the events of `PhaseStep`. -/
theorem phaseStep_of_nextPhase {p : Params} {ph ph' : Phase} {e : Event} (h : nextPhase p ph e = some ph') : PhaseStep p ph e ph' := by
  unfold nextPhase at h
  split at h
  · rename_i r port baud timeout answer
    split_ifs at h with hc
    obtain ⟨rfl, rfl, hb⟩ := hc
    cases answer <;> cases h
    · exact .opened r baud hb
    · exact .openError r baud hb
  · rename_i r k baud
    split_ifs at h with hc
    obtain ⟨rfl, hb⟩ := hc
    cases h; exact .skipped r baud hb
  · rename_i r sub bytes answer
    split_ifs at h with hc
    subst hc
    cases answer <;> cases h
    · exact .written r sub
    · exact .writeError r sub
  · rename_i r interval
    split_ifs at h with hc
    subst hc; cases h; exact .settled r
  · rename_i r raw
    split_ifs at h with hl hc
    · cases h; exact .terminal r raw hl hc
    · cases h; exact .answered r raw hl hc
  · rename_i r raw n a
    split_ifs at h with hc
    obtain ⟨hk, rfl, rfl⟩ := hc
    cases h; exact .reported r raw hk
  · rename_i r raw k carried
    split_ifs at h with hc
    obtain ⟨hk, rfl⟩ := hc
    cases h; exact .diagnosed r _ k hk
  · rename_i r k baud
    split_ifs at h with hc
    obtain ⟨rfl, hb⟩ := hc
    cases h; exact .writeDiagnosed r baud hb
  · cases h; exact .closed _
  · cases h

/-- Running the grammar over two traces in turn. -/
theorem runPhases_append (p : Params) (ph : Phase) (xs ys : List Event) :
    runPhases p ph (xs ++ ys) = (runPhases p ph xs).bind fun q => runPhases p q ys := by
  induction xs generalizing ph with
  | nil => rfl
  | cons x xs ih => simp only [List.cons_append, runPhases]; cases nextPhase p ph x <;> simp [ih]

/-- A nonempty trace is one event and the rest. -/
theorem runPhases_cons {p : Params} {ph q : Phase} {e : Event} {es : List Event} (h : runPhases p ph (e :: es) = some q) :
    ∃ ph', PhaseStep p ph e ph' ∧ runPhases p ph' es = some q := by
  simp only [runPhases] at h
  cases hn : nextPhase p ph e with
  | none => simp [hn] at h
  | some ph' => exact ⟨ph', phaseStep_of_nextPhase hn, by simpa [hn] using h⟩

end Sys2Proof.Safety
end

