-- ==== Sys2Proof/Tests/Slice0.lean ====
section
/-! SUPPORT. Tests of single steps against the vectors of spec/95_test_vectors.md and the corner cases of the rules, the smoke test of
WellFormed, and for every statement with hypotheses a state that meets them (the theorems named `witness_…`). -/

namespace Sys2Proof.Tests

open Machine Safety

/-! ### Helpers -/

/-- The reset state with parameters that are numbers, `RX_MAX = 12`. -/
def base : State := { State.reset with params := { portId := "p", readTimeout := 1, settleInterval := 2, rxMax := 12 } }

/-- A state inside a session at rate index `r`. -/
def inSession (x : Session) (r : Fin 9) : State := { base with session := x, rateIdx := r, portOpen := true }

/-- A state with a frame to judge. -/
def withFrm (f : List Byte) : State := { base with frm := f }

/-- A state with received bytes to parse. -/
def withRaw (raw : List Byte) : State := { base with rxRaw := raw }

/-- One look at a next state. -/
def see {α : Type} (o : Answer) (f : State → α) : Option α :=
  match o with
  | .next s => some (f s)
  | .fault _ => none
  | .refused _ => none

/-- The fault of an answer. -/
def faultOf (o : Answer) : Option Fault :=
  match o with
  | .next _ => none
  | .fault r => some r
  | .refused _ => none

/-- The control registers, as the vectors of 95 section 2.4 write them. -/
def control (s : State) : Session × Nat × Bool × Kind := (s.session, s.rateIdx.val, s.portOpen, s.kind)

/-- What `DEC.PARSE` makes of some bytes. -/
def parsedAs (raw : List Byte) : Option Kind := see (exec .decParse (withRaw raw)) (·.kind)

/-- The device 300 at address 5 as its frame (95 S6). -/
def frame300 : List Byte := [0xFD#8, 0x46#8, 0x03#8, 0x00#8, 0x00#8, 0x01#8, 0x2C#8, 0x05#8, 0x24#8, 0x22#8]

/-- The frames of the two commands (R82). -/
def startFrame : List Byte := [0xFD#8, 0x46#8, 0x01#8, 0x13#8, 0x90#8]

def continueFrame : List Byte := [0xFD#8, 0x46#8, 0x02#8, 0x53#8, 0x91#8]

/-- The shortest scan-ended frame (R85). -/
def endedBytes : List Byte := [0xFD#8, 0x46#8, 0x04#8, 0xD3#8, 0x93#8]

/-! ### WellFormed: one ill-formed term for each check -/

/-- R271: a serial byte 0xFF; a checksum byte 0xFF; a bus address 0xFF. -/
theorem test_wellFormed_device : (Instr.deviceFound 0xFF#32 7#8).wellFormed = false ∧
    (Instr.deviceFound 584#32 1#8).wellFormed = false ∧ (Instr.deviceFound 0#32 0xFF#8).wellFormed = false ∧
    (Instr.deviceFound 300#32 5#8).wellFormed = true := by decide +kernel

/-- R85, R91: a payload byte 0xFF. -/
theorem test_wellFormed_ended : (Instr.scanEnded [0xFF#8]).wellFormed = false ∧ (Instr.scanEnded [0xAA#8, 0xBB#8]).wellFormed = true := by
  decide +kernel

/-! ### Decoding, from bytes written out by the spec's formats -/

/-- R82. -/
theorem test_decode_commands :
    decodeTableWord 40 0xFD46011390 = some .startScan ∧ decodeTableWord 40 0xFD46025391 = some .continueScan ∧
    decodeTableWord 40 0xFD4604D393 = some .endScan := by decide +kernel

/-- R84, 95 section 2.3: serial 305419896 at 0x2A. -/
theorem test_decode_device :
    decodeTableWord 80 0xFD4603123456782A5CDD = some (.deviceFound 305419896#32 0x2A#8) := by decide +kernel

/-- R85, 95 S5. -/
theorem test_decode_ended :
    decode .inbound [0xFD#8, 0x46#8, 0x04#8, 0xAA#8, 0xBB#8, 0x23#8, 0x8E#8] = .ok (.scanEnded [0xAA#8, 0xBB#8]) ∧
    decode .inbound endedBytes = .ok (.scanEnded []) := by decide +kernel

/-- R91. -/
theorem test_decode_fill : decodeTableWord 8 0xFF = some .idleFill := by decide +kernel

/-- R93: a frame is one number with byte 0 most significant, so the bytes of START_SCAN in the other order are no row, and are received as they
stand. -/
theorem test_decode_reversed : decodeTableWord 40 0x90130146FD = none ∧
    (State.reset.withFetchWord 40 0x90130146FD).answers.receives = [[0x90#8, 0x13#8, 0x01#8, 0x46#8, 0xFD#8]] := by decide +kernel

/-- Each refusal by its name (R90, R93). -/
theorem test_decode_refusals :
    decode .outbound [0xFD#8, 0x46#8, 0x03#8, 0x92#8, 0x51#8] = .error .notACommand ∧
    decode .inbound [] = .error .noBytes ∧ decode .inbound [0xFD#8, 0x46#8, 0x04#8, 0xD3#8] = .error .tooShort ∧
    decode .inbound [0xFD#8, 0x46#8, 0x04#8, 0xFF#8, 0x93#8] = .error .fillInside ∧
    decode .inbound [0xFD#8, 0x46#8, 0x04#8, 0xD3#8, 0x92#8] = .error .badChecksum ∧
    decode .inbound [0xFD#8, 0x03#8, 0x04#8, 0xE1#8, 0x03#8] = .error .wrongHeader ∧
    decode .inbound [0xFD#8, 0x46#8, 0x05#8, 0x12#8, 0x53#8] = .error .unknownType ∧
    decode .inbound [0xFD#8, 0x46#8, 0x03#8, 0x92#8, 0x51#8] = .error .wrongDeviceLength := by decide +kernel

/-- A table word's row, placed, is what the next step after reset runs: the fill byte and the continue-scan command. -/
theorem test_fetch_fill : see (step (State.reset.withFetchWord 8 0xFF)) (fun s => (s.session, s.rxRaw, s.kind)) =
    some (.started, [0xFF#8], .malformedFrame) := by decide +kernel

theorem test_fetch_continue : see (step (State.reset.withFetchWord 40 0xFD46025391)) (fun s => (s.session, s.txBuf.toBytes)) =
    some (.ended, continueFrame) := by decide +kernel

/-! ### The checksum unit (95 sections 2.1, 2.2) -/

theorem test_crcInit : see (exec .crcInit { base with crcAcc := 0x9013#16, crcBit := 3 }) (fun s => (s.crcAcc, s.crcBit)) =
    some (0xFFFF#16, 3) := by decide

theorem test_crcXor : see (exec (.crcXor 0xFD#8) { base with crcAcc := 0xFFFF#16, crcBit := 8 }) (fun s => (s.crcAcc, s.crcBit)) =
    some (0xFF02#16, 0) := by decide

theorem test_crcXor_low : see (exec (.crcXor 0x34#8) { base with crcAcc := 0x1234#16 }) (·.crcAcc) = some 0x1200#16 := by decide

theorem test_crcShift : [0x0000#16, 0x0001#16, 0x0002#16, 0x8000#16, 0xFFFF#16, 0xA001#16, 0x7F81#16].map
      (fun a => see (exec .crcShift { base with crcAcc := a }) (·.crcAcc)) =
    [some 0x0000#16, some 0xA001#16, some 0x0001#16, some 0x4000#16, some 0xDFFE#16, some 0xF001#16, some 0x9FC1#16] := by decide

theorem test_crcShift_count : see (exec .crcShift { base with crcBit := 7 }) (fun s => (s.crcBit, s.freeCount)) = some (8, 0) := by decide

theorem test_crcByte : see (exec (.crcByte 0x46#8) { base with crcAcc := 0xC17E#16 }) (fun s => (s.crcAcc, s.crcBit)) =
    some (0xD2C0#16, 8) := by decide +kernel

/-- The published check value, and the order of the bytes. -/
theorem test_crcSeq : [[0x31#8, 0x32#8, 0x33#8, 0x34#8, 0x35#8, 0x36#8, 0x37#8, 0x38#8, 0x39#8], [0x02#8, 0x01#8], [0xFF#8, 0xFF#8], []].map
      (fun bs => see (exec (.crcSeq bs) base) (·.crcAcc)) =
    [some 0x4B37#16, some 0x10C1#16, some 0x0000#16, some 0xFFFF#16] := by decide +kernel

/-! ### Encoder and decoder (95 section 2.3) -/

theorem test_encBuild : see (exec (.encBuild 0xFD#8 0x46#8 0x94#8) base) (·.txBuf.toBytes) =
    some [0xFD#8, 0x46#8, 0x94#8, 0xD3#8, 0xFF#8] := by decide +kernel

theorem test_encBuild_order : see (exec (.encBuild 0x46#8 0xFD#8 0x01#8) base) (·.txBuf.toBytes) =
    some [0x46#8, 0xFD#8, 0x01#8, 0x11#8, 0x45#8] := by decide +kernel

theorem test_decDenoise :
    see (exec .decDenoise (withRaw [0xFF#8, 0xFD#8, 0xFF#8, 0x46#8, 0x04#8, 0xD3#8, 0xFF#8, 0x93#8, 0xFF#8])) (·.frm) = some endedBytes := by
  decide +kernel

theorem test_decValidate :
    see (exec .decValidate (withFrm [0xFD#8, 0x46#8, 0x03#8, 0x00#8, 0x00#8, 0x01#8, 0x2C#8, 0x05#8, 0x24#8, 0x23#8]))
      (fun s => (s.declared, s.computed, s.crcOk, s.result)) = some (0x2324#16, 0x2224#16, false, .raised .checksumMismatch) := by decide +kernel

theorem test_decValidate_short :
    see (exec .decValidate { withFrm [0xFD#8, 0x46#8, 0x04#8, 0xD3#8] with declared := 7#16 }) (fun s => (s.declared, s.result)) =
      some (7#16, .raised .malformedFrame) := by decide +kernel

/-- The header before the type; the model's `kind` is the parse's alone. -/
theorem test_decClassify :
    [[0x01#8, 0x46#8, 0x04#8, 0#8, 0#8], [0xFD#8, 0x03#8, 0x04#8, 0#8, 0#8], [0xFD#8, 0x46#8, 0x04#8, 0#8, 0#8], [0xFD#8, 0x46#8, 0x03#8, 0#8, 0#8],
        [0xFD#8, 0x46#8, 0x05#8, 0#8, 0#8]].map
      (fun f => see (exec .decClassify { withFrm f with crcOk := true }) (fun s => (s.result, s.kind))) =
    [some (.raised .unrecognizedFrame, .scanComplete), some (.raised .unrecognizedFrame, .scanComplete), some (.raised .scanEnded, .scanComplete),
      some (.passed, .scanComplete), some (.raised .unrecognizedFrame, .scanComplete)] := by decide +kernel

theorem test_decExtract : see (exec .decExtract (withFrm [0xFD#8, 0x46#8, 0x03#8, 0x12#8, 0x34#8, 0x56#8, 0x78#8, 0x2A#8, 0x5C#8, 0xDD#8]))
      (fun s => (s.serial, s.busAddr, s.result)) = some (some 0x12345678#32, some 0x2A#8, .raised .deviceFound) := by decide +kernel

/-- R153: one line per kind, and the priorities of R148. -/
theorem test_decParse :
    [[], [0xFF#8], [0xFF#8, 0xFD#8, 0x46#8, 0x03#8, 0xFF#8], endedBytes, frame300,
        [0xFD#8, 0x46#8, 0x03#8, 0x00#8, 0x00#8, 0x01#8, 0x2D#8, 0x05#8, 0x24#8, 0x22#8],
        [0x01#8, 0x46#8, 0x03#8, 0x00#8, 0x00#8, 0x01#8, 0x2C#8, 0x05#8, 0x2B#8, 0x33#8], startFrame,
        [0xFD#8, 0x46#8, 0x03#8, 0x00#8, 0x00#8, 0x01#8, 0x5D#8, 0xBD#8],
        [0xFD#8, 0x46#8, 0x03#8, 0x00#8, 0x00#8, 0x01#8, 0x2C#8, 0x05#8, 0x09#8, 0xE2#8, 0x1D#8],
        [0x01#8, 0x02#8, 0x03#8, 0x04#8], [0x01#8, 0x02#8, 0x03#8, 0x04#8, 0x05#8],
        [0x00#8, 0xFD#8, 0x46#8, 0x03#8, 0x00#8, 0x00#8, 0x01#8, 0x2C#8, 0x05#8, 0x24#8, 0x22#8]].map parsedAs =
    [some .scanComplete, some .malformedFrame, some .malformedFrame, some .scanEnded, some .deviceFound, some .checksumMismatch,
      some .unrecognizedFrame, some .unrecognizedFrame, some .malformedDeviceRecord, some .malformedDeviceRecord, some .malformedFrame,
      some .checksumMismatch, some .checksumMismatch] := by decide +kernel

theorem test_decParse_device : see (exec .decParse (withRaw frame300)) (fun s => (s.serial, s.busAddr, s.frm == s.rxRaw)) =
    some (some 300#32, some 5#8, true) := by decide +kernel

/-! ### Inbound rows -/

/-- R271: the frame of serial 584 at 0x01 is lost (declared 0x2101, computed 0x3F7C). -/
theorem test_deviceFound_lost : see (exec (.deviceFound 584#32 1#8) (inSession .continuing 0)) (fun s => (s.kind, s.declared, s.computed)) =
    some (.checksumMismatch, 0x2101#16, 0x3F7C#16) := by decide +kernel

theorem test_deviceFound : see (exec (.deviceFound 0xFE12A0B4#32 1#8) (inSession .continuing 0)) (fun s => (s.kind, s.serial, s.rxRaw)) =
    some (.deviceFound, some 4262633652#32, [0xFD#8, 0x46#8, 0x03#8, 0xFE#8, 0x12#8, 0xA0#8, 0xB4#8, 0x01#8, 0x33#8, 0x6F#8]) := by decide +kernel

theorem test_scanEnded : see (exec (.scanEnded [0xAA#8, 0xBB#8]) (inSession .continuing 0)) (fun s => (s.kind, s.rxRaw)) =
    some (.scanEnded, [0xFD#8, 0x46#8, 0x04#8, 0xAA#8, 0xBB#8, 0x23#8, 0x8E#8]) := by decide +kernel

theorem test_idleFill : see (exec .idleFill (inSession .continuing 0)) (fun s => (s.kind, s.frm, s.events)) =
    some (.malformedFrame, [], [.rx [0xFF#8]]) := by decide +kernel

/-! ### Transport, report, diagnostics (95 section 2.5) -/

theorem test_xportOpen : see (exec .xportOpen { base with rateIdx := 7, answers := { base.answers with opens := [.opened] } })
      (fun s => (s.portOpen, s.events)) = some (true, [.opening "p" 1200 1 .opened]) := by decide +kernel

/-- No entry of the table at index 8: the open is made all the same, with a free rate (R211, log entry 17). -/
theorem test_xportOpen_off : see (exec .xportOpen { base with rateIdx := 8, answers := { base.answers with opens := [.opened] } })
      (fun s => (s.portOpen, s.events.length, s.freeCount)) = some (true, 1, 1) := by decide +kernel

theorem test_xportOpen_fails : see (exec .xportOpen { base with answers := { base.answers with opens := [.openError, .opened] } })
      (fun s => (s.portOpen, s.result, s.answers.opens)) = some (false, .openError, [.opened]) := by decide +kernel

theorem test_xportWrite : see (exec .xportWrite { inSession .started 0 with
        txBuf := buildFrame 0xFD#8 0x46#8 0x01#8, answers := { base.answers with writes := [.written] } })
      (fun s => (s.result, s.events)) = some (.written, [.tx startFrame .written]) := by decide +kernel

theorem test_xportSettle : see (exec .xportSettle base) (fun s => (s.events, s.rxRaw)) = some ([.settle 2], []) := by decide +kernel

/-- `RX_MAX = 12` and a bus that sends 13 bytes. -/
theorem test_xportRecv : see (exec .xportRecv { inSession .started 0 with answers := { base.answers with receives := [List.replicate 13 0x55#8] } })
      (fun s => s.rxRaw.length) = some 12 := by decide +kernel

theorem test_xportClose : see (exec .xportClose (inSession .ended 4)) (fun s => (s.portOpen, s.events)) = some (false, [.close]) := by decide +kernel

/-- The third device of a run gets number 3 and no header. -/
theorem test_reportDevice : see (exec .reportDevice { base with
        kind := .deviceFound, serial := some 300#32, busAddr := some 5#8, reporter := { seqCount := 2, headerPrinted := true, output := [] } })
      (fun s => (s.reporter, s.events)) =
    some ({ seqCount := 3, headerPrinted := true, output := [.row 3 300#32 5#8] }, [.report 300#32 5#8]) := by decide +kernel

/-- The bytes carried are the undenoised ones. -/
theorem test_diagEmit : see (exec (.diagEmit .checksumMismatch) { base with rxRaw := [0xFF#8, 0xFD#8], frm := [0xFD#8] }) (·.events) =
    some [.diag .checksumMismatch (.bytes [0xFF#8, 0xFD#8])] := by decide +kernel

theorem test_diagEmit_rate : see (exec (.diagEmit .transportOpenError) base) (·.events) =
    some [.diag .transportOpenError (.rate 115200)] := by decide +kernel

theorem test_diagEmit_off : see (exec (.diagEmit .transportWriteError) { base with rateIdx := 8 }) (fun s => (s.events.length, s.freeCount)) =
    some (1, 1) := by decide +kernel

/-! ### The exchange and the transitions (R185, 95 section 2.4) -/

theorem test_scanExchange : see (exec (.scanExchange 0x01#8) { inSession .started 0 with
        answers := { base.answers with writes := [.written], receives := [endedBytes] } }) (fun s => (s.result, s.events)) =
    some (.raised .scanEnded, [.tx startFrame .written, .settle 2, .rx endedBytes]) := by decide +kernel

theorem test_startScan : see (exec .startScan { base with
        rateIdx := 3, answers := { opens := [.opened], writes := [.written], receives := [frame300] } }) (fun s => (control s, s.events)) =
    some ((.started, 3, true, .deviceFound), [.opening "p" 19200 1 .opened, .tx startFrame .written, .settle 2, .rx frame300]) := by decide +kernel

theorem test_startScan_fails : see (exec .startScan { base with answers := { base.answers with opens := [.openError] } }) (fun s => (control s, s.events)) =
    some ((.ended, 0, false, .scanComplete), [.opening "p" 115200 1 .openError, .diag .transportOpenError (.rate 115200)]) := by decide +kernel

theorem test_continueScan : see (exec .continueScan { inSession .continuing 4 with
        answers := { base.answers with writes := [.written], receives := [frame300] } }) (fun s => (control s, s.events)) =
    some ((.continuing, 4, true, .deviceFound), [.tx continueFrame .written, .settle 2, .rx frame300, .report 300#32 5#8]) := by decide +kernel

theorem test_continueScan_fails : see (exec .continueScan { inSession .continuing 4 with answers := { base.answers with writes := [.writeError] } })
      (fun s => (control s, s.events)) =
    some ((.ended, 4, true, .scanComplete), [.tx continueFrame .writeError, .diag .transportWriteError (.rate 9600)]) := by decide +kernel

theorem test_endScan : see (exec .endScan base) (fun s => (s.txBuf.toBytes, s.events)) = some (endedBytes, []) := by decide +kernel

/-- R199: no step; R198: close and advance. -/
theorem test_step_swept : faultOf (step { base with rateIdx := 8 }) = some .sweepDone := by decide +kernel

theorem test_step_ended : see (step (inSession .ended 7)) (fun s => (control s, s.events)) = some ((.idle, 8, false, .scanComplete), [.close]) := by
  decide +kernel

/-- P5: one turn of a run that never ends. -/
theorem test_step_loops : see (step { inSession .continuing 0 with answers := { base.answers with writes := [.written], receives := [[0xFF#8]] } })
      (fun s => (control s, s.events)) =
    some ((.continuing, 0, true, .malformedFrame),
      [.tx continueFrame .written, .settle 2, .rx [0xFF#8], .diag .malformedFrame (.bytes [0xFF#8])]) := by decide +kernel

/-! ### Witnesses: for every statement with hypotheses, states and operands that meet them, one per clause, at the ends of the ranges -/

/-- `CrcShiftShiftsAndFeedsBack`: the last counted shift, and the one past it. -/
theorem witness_crcShift : ({ base with crcBit := 7 } : State).crcBit.val < 8 ∧ ¬ ({ base with crcBit := 8 } : State).crcBit.val < 8 := by decide

/-- `OneAlteredByteIsDetected`: the last checksum byte, and the first body byte. -/
theorem witness_oneAlteredByte :
    (4 < (sealFrame [0xFD#8, 0x46#8, 0x04#8]).length ∧ (sealFrame [0xFD#8, 0x46#8, 0x04#8])[4]? ≠ some 0x92#8) ∧
    (0 < (sealFrame []).length ∧ (sealFrame [])[0]? ≠ some 0x00#8) := by decide +kernel

/-- `BuiltFrameParsesByHeaderAndType`: a frame for each outcome. -/
theorem witness_builtFrame :
    [buildFrame 0xFD#8 0x46#8 0x04#8, buildFrame 0xFD#8 0x46#8 0x03#8, buildFrame 0xFD#8 0x46#8 0x01#8, buildFrame 0x01#8 0x46#8 0x04#8].all
      (fun f => noFill (withRaw f.toBytes).rxRaw) = true := by decide +kernel

/-- `DenoiseDeletesEveryFillByte`: only fill, and no fill. -/
theorem witness_denoise : (∀ b ∈ [0xFF#8, 0xFF#8], b = 0xFF#8) ∧ 0xFF#8 ∉ [0xFE#8, 0x00#8] := by decide

/-- `ValidateTestsLengthThenChecksum`: 4 and 5 bytes. -/
theorem witness_validate : (withFrm (endedBytes.take 4)).frm.length < 5 ∧ 5 ≤ (withFrm endedBytes).frm.length := by decide

/-- `ClassifyTestsHeaderThenType`: a validated frame of 5 bytes. -/
theorem witness_classify : ({ withFrm endedBytes with crcOk := true } : State).crcOk = true ∧ 5 ≤ (withFrm endedBytes).frm.length := by decide

/-- `ExtractDecodesTenByteRecord`: lengths 3, 9, 10 and 11. -/
theorem witness_extract :
    (3 ≤ (withFrm (frame300.take 3)).frm.length ∧ byteAt (withFrm (frame300.take 3)).frm 2 = 0x03#8 ∧ (withFrm (frame300.take 3)).frm.length ≠ 10) ∧
    (byteAt (withFrm (frame300.take 9)).frm 2 = 0x03#8 ∧ (withFrm (frame300.take 9)).frm.length ≠ 10) ∧
    (byteAt (withFrm frame300).frm 2 = 0x03#8 ∧ (withFrm frame300).frm.length = 10) ∧
    (byteAt (withFrm (frame300 ++ [0#8])).frm 2 = 0x03#8 ∧ (withFrm (frame300 ++ [0#8])).frm.length ≠ 10) := by decide

/-- `DecoderStepsStopOutsidePreconditions`: a bad verdict, 4 bytes, 2 bytes, 3 bytes of another type. -/
theorem witness_decoderStops :
    base.crcOk = false ∧ ({ withFrm (endedBytes.take 4) with crcOk := true } : State).frm.length < 5 ∧
    (withFrm (frame300.take 2)).frm.length < 3 ∧
    (3 ≤ (withFrm (endedBytes.take 3)).frm.length ∧ byteAt (withFrm (endedBytes.take 3)).frm 2 ≠ 0x03#8) := by decide

/-- `DecodeInvertsEncode`: both directions. -/
theorem witness_decodeInvertsEncode :
    (Instr.startScan.wellFormed = true ∧ Instr.startScan.direction = some .outbound ∧ encode .startScan = some startFrame) ∧
    ((Instr.deviceFound 300#32 5#8).wellFormed = true ∧ (Instr.deviceFound 300#32 5#8).direction = some .inbound ∧
      encode (.deviceFound 300#32 5#8) = some frame300) := by decide +kernel

/-- `EncodeInvertsDecode`: both directions. -/
theorem witness_encodeInvertsDecode :
    decode .outbound continueFrame = .ok .continueScan ∧ decode .inbound frame300 = .ok (.deviceFound 300#32 5#8) := by decide +kernel

/-- `InboundRowsAreReceivedAndParsed`: an ill-formed frame, and one longer than `RX_MAX`. -/
theorem witness_inbound :
    (Instr.deviceFound 0xFF#32 7#8).direction = some .inbound ∧
    encode (.deviceFound 0xFF#32 7#8) = some [0xFD#8, 0x46#8, 0x03#8, 0#8, 0#8, 0#8, 0xFF#8, 0x07#8, 0xA9#8, 0x13#8] ∧
    (Instr.scanEnded (List.replicate 8 0#8)).direction = some .inbound ∧ (encode (.scanEnded (List.replicate 8 0#8))).isSome = true ∧
    (inSession .continuing 0).portOpen = true := by decide +kernel

/-- `DeviceFrameIsFound`: the least `RX_MAX`. -/
theorem witness_deviceFrame :
    let s := { inSession .continuing 0 with params := { base.params with rxMax := 10 } }
    s.portOpen = true ∧ 10 ≤ s.params.rxMax ∧ (Instr.deviceFound 300#32 5#8).wellFormed = true := by decide +kernel

/-- `FillByteHidesDevice`: a fill byte in the serial number, and one in the checksum. -/
theorem witness_fillByte :
    let s := { inSession .continuing 0 with params := { base.params with rxMax := 10 } }
    s.portOpen = true ∧ 10 ≤ s.params.rxMax ∧ (Instr.deviceFound 0xFF#32 7#8).wellFormed = false ∧
      (Instr.deviceFound 584#32 1#8).wellFormed = false := by decide +kernel

/-- `EndedFrameEndsScan`: no payload, and the longest that fits. -/
theorem witness_endedFrame :
    (inSession .started 7).portOpen = true ∧ ([] : List Byte).length + 5 ≤ (inSession .started 7).params.rxMax ∧
    (Instr.scanEnded []).wellFormed = true ∧ (List.replicate 7 0x22#8).length + 5 ≤ (inSession .started 7).params.rxMax ∧
    (Instr.scanEnded (List.replicate 7 0x22#8)).wellFormed = true := by decide +kernel

/-- `LoneFillByteIsMalformed`. -/
theorem witness_loneFill :
    let s := { inSession .continuing 0 with params := { base.params with rxMax := 1 } }
    s.portOpen = true ∧ 1 ≤ s.params.rxMax := by decide

/-- `OpenAsksAtTableRate`: the first and the last rate, and no rate, with and without a pending answer. -/
theorem witness_open :
    (base.portOpen = false ∧ baudTable[base.rateIdx.val]? = some 115200 ∧ base.answers.opens = []) ∧
    (let s := { base with rateIdx := 7, answers := { base.answers with opens := [.openError] } }
     s.portOpen = false ∧ baudTable[s.rateIdx.val]? = some 1200 ∧ s.answers.opens = [.openError]) ∧
    (let s := { base with rateIdx := 8 }; s.portOpen = false ∧ s.rateIdx.val = 8) := by decide

/-- `WriteHandsOverFiveBytes` and `ReceiveIsBoundedByRxMax`, with and without a pending answer, and `CloseReleasesHandle`. -/
theorem witness_transport :
    (let s := { inSession .started 0 with answers := { opens := [], writes := [.writeError], receives := [List.replicate 13 0#8] } }
     s.portOpen = true ∧ s.answers.writes = [.writeError] ∧ s.answers.receives = [List.replicate 13 0#8]) ∧
    (inSession .started 0).portOpen = true ∧ (inSession .started 0).answers.writes = [] ∧ (inSession .started 0).answers.receives = [] := by
  decide

/-- `GuardsStopOperations`: one state per clause. -/
theorem witness_guards :
    (inSession .started 0).portOpen = true ∧
    (let s := { base with rateIdx := 8 }; s.portOpen = false ∧ s.rateIdx.val = 8) ∧
    (inSession .ended 0).session ≠ .idle ∧ base.session ≠ .continuing := by decide

/-- `ReportHandsDeviceOver`: a device, and each way to have none. -/
theorem witness_report :
    (let s := { base with kind := .deviceFound, serial := some 0#32, busAddr := some 0#8 }
     s.kind = .deviceFound ∧ s.serial = some 0#32 ∧ s.busAddr = some 0#8) ∧
    base.kind ≠ .deviceFound ∧ ({ base with kind := .deviceFound } : State).serial = none ∧
    ({ base with kind := .deviceFound, serial := some 0#32 } : State).busAddr = none := by decide

/-- `DiagCarriesBytesOrRate`: the last rate, and no rate. -/
theorem witness_diag : baudTable[(inSession .started 7).rateIdx.val]? = some 1200 ∧ ({ base with rateIdx := 8 } : State).rateIdx.val = 8 := by
  decide

/-- `ExchangeRunsPartsInOrder`, `ExchangeCompletesWithOneCommand` and `ExchangeRunsTheFrameReceived`: both answers of the write. -/
theorem witness_exchange :
    (let s := { inSession .continuing 0 with answers := { opens := [], writes := [.written], receives := [endedBytes] } }
     s.portOpen = true ∧ (drawWrite s).1 = .written ∧ decode .inbound endedBytes = .ok (.scanEnded []) ∧
       s.answers.writes = .written :: [] ∧ s.answers.receives = endedBytes :: []) ∧
    (let s := { inSession .continuing 0 with answers := { base.answers with writes := [.writeError] } }
     s.portOpen = true ∧ (drawWrite s).1 = .writeError) := by decide +kernel

/-- `StartScanOpensAndExchanges`: the first and the last rate, each of the three courses of answers. -/
theorem witness_startScan :
    (let s := { base with answers := { base.answers with opens := [.openError] } }
     s.session = .idle ∧ baudTable[s.rateIdx.val]? = some 115200 ∧ s.portOpen = false ∧ (drawOpen s).1 = .openError) ∧
    (let s := { base with rateIdx := 7, answers := { opens := [.opened], writes := [.writeError], receives := [] } }
     s.session = .idle ∧ baudTable[s.rateIdx.val]? = some 1200 ∧ s.portOpen = false ∧ (drawOpen s).1 = .opened ∧
       (drawWrite (drawOpen s).2).1 = .writeError) ∧
    (let s := { base with answers := { opens := [.opened], writes := [.written], receives := [frame300] } }
     s.session = .idle ∧ s.portOpen = false ∧ (drawOpen s).1 = .opened ∧ (drawWrite (drawOpen s).2).1 = .written) := by decide

/-- `ContinueScanExchangesAndReacts`: both answers of the write, and no rate. -/
theorem witness_continueScan :
    (let s := { inSession .continuing 7 with answers := { base.answers with writes := [.written] } }
     s.session = .continuing ∧ baudTable[s.rateIdx.val]? = some 1200 ∧ s.portOpen = true ∧ (drawWrite s).1 = .written) ∧
    (let s := { inSession .continuing 0 with answers := { base.answers with writes := [.writeError] } }
     s.session = .continuing ∧ baudTable[s.rateIdx.val]? = some 115200 ∧ s.portOpen = true ∧ (drawWrite s).1 = .writeError) ∧
    (let s := { inSession .continuing 8 with answers := { base.answers with writes := [.writeError] } }
     s.session = .continuing ∧ s.rateIdx.val = 8 ∧ s.portOpen = true ∧ (drawWrite s).1 = .writeError) := by decide

/-- `StepRunsSelectedOperation`: each clause. -/
theorem witness_stepRuns :
    selected base = some .startScan ∧ selected (inSession .continuing 7) = some .continueScan ∧
    selected { inSession .started 0 with kind := .deviceFound } = some .reportDevice ∧ selected (inSession .ended 0) = some .xportClose ∧
    selected (inSession .started 0) = none ∧ selected { base with session := .ended } = none ∧ selected { base with rateIdx := 8 } = none := by
  decide

/-- `StartedReactsToKind`: a state for each kind. -/
theorem witness_started :
    [Kind.scanComplete, .scanEnded, .malformedFrame, .checksumMismatch, .unrecognizedFrame, .malformedDeviceRecord].all
      (fun k => let s := { inSession .started 0 with kind := k }; decide (s.session = .started ∧ s.kind = k)) = true := by decide

theorem witness_started_device :
    let s := { inSession .started 0 with kind := .deviceFound, serial := some 300#32, busAddr := some 5#8 }
    s.session = .started ∧ s.kind = .deviceFound ∧ s.serial = some 300#32 ∧ s.busAddr = some 5#8 := by decide

/-- `EndedClosesAndAdvances`: the last rate with a handle, the first without. -/
theorem witness_ended :
    ((inSession .ended 7).session = .ended ∧ (inSession .ended 7).rateIdx.val < 8 ∧ (inSession .ended 7).portOpen = true) ∧
    (let s := { base with session := .ended }; s.session = .ended ∧ s.rateIdx.val < 8 ∧ s.portOpen = false) := by decide

/-- `OnlySweepDoneHasNoStep` and `StepKeepsControlInv`, `StepKeepsDataInv`: the first state, and the swept one. -/
theorem witness_invariants :
    (ControlInv base ∧ ¬ SweepDone base) ∧ (ControlInv { base with rateIdx := 8 } ∧ SweepDone { base with rateIdx := 8 }) := by decide

theorem witness_dataInv : DataInv base ∧ DataInv { base with rateIdx := 8 } := by
  constructor <;> simp [DataInv, base, State.reset]

/-- A first step that answers a next state: a failed open. -/
def failing : State := { base with answers := { base.answers with opens := [.openError] } }

/-- `RateChangesOnlyAtSessionEnd`, `InstructionsWriteOnlyTheirRegisters` and the four `StepKeeps…`: the step exists from a state that meets
every invariant, as does a step out of `Ended`. -/
theorem witness_steps : (see (step failing) (·.session)) = some .ended ∧ (see (step (inSession .ended 7)) (·.rateIdx)) = some 8 ∧
    (see (exec .crcInit base) (·.crcAcc)) = some 0xFFFF#16 := by decide +kernel

theorem witness_failing : ControlInv failing ∧ DataInv failing ∧ StartedInv failing ∧ TraceInv failing ∧ ReporterInv failing := by
  refine ⟨by decide, ?_, ?_, ?_, ?_⟩
  · simp [DataInv, failing, base, State.reset]
  · simp [StartedInv, failing, base, State.reset]
  · decide +kernel
  · decide +kernel

/-- The end of a sweep at which every open failed. -/
def swept : State :=
  { base with
    rateIdx := 8
    events := baudTable.flatMap fun baud => [.opening "p" baud 1 .openError, .diag .transportOpenError (.rate baud)] }

/-- `SweepTriesEveryRateOnce` and `EveryOpenedHandleIsClosed`. -/
theorem witness_swept : TraceInv swept ∧ SweepDone swept ∧ swept.session = .idle := by decide +kernel

/-- `OnlyStartAndContinueAreSent`: a session cut short at its first write. -/
theorem witness_sent :
    let s := { inSession .ended 0 with
      events := [.opening "p" 115200 1 .opened, .tx (commandFrame 0x01#8) .writeError, .diag .transportWriteError (.rate 115200)] }
    TraceInv s ∧ .tx (commandFrame 0x01#8) .writeError ∈ s.events := by decide +kernel

/-- `UnspecifiedRegistersDoNotMatter`: two states that differ in data registers only; one that steps, one that is done. -/
theorem witness_unspecified :
    SameButData failing { failing with crcAcc := 1#16, frm := [1#8], rxRaw := [2#8], kind := .deviceFound, declared := 3#16 } ∧
    SameButData { base with rateIdx := 8 } { base with rateIdx := 8, kind := .malformedFrame } ∧
    faultOf (step { base with rateIdx := 8 }) = some .sweepDone := by decide +kernel

/-- `SessionIsUnbounded`: one turn; the lone fill byte ends no session. -/
theorem witness_unbounded :
    let s := { inSession .continuing 0 with answers := { opens := [], writes := [.written], receives := [[0xFF#8]] } }
    s.session = .continuing ∧ s.portOpen = true ∧ [[0xFF#8]].length = 1 ∧
      (∀ raw ∈ [[0xFF#8]], raw.length ≤ s.params.rxMax ∧ classOf (parseTree raw) ≠ .terminal) ∧
      s.answers.writes = List.replicate 1 .written ++ [] ∧ s.answers.receives = [[0xFF#8]] ++ [] := by decide +kernel

/-- `HostResetRestartsOrIsRefused`: both clauses. -/
theorem witness_hostReset : (inSession .started 0).portOpen = true ∧ ({ base with rateIdx := 8 } : State).portOpen = false := by decide

/-- `BufferReadsBackWhatWasWritten`: the last byte of `tx_buf`, and one past it. -/
theorem witness_buffer : 4 + [0x90#8].length ≤ startFrame.length ∧ startFrame.length < 5 + [0x90#8].length := by decide

end Sys2Proof.Tests
end

