-- ==== Sys2Proof/Proofs/Buffers.lean ====
section
/-! PROOFS. The rules of `memRead` and `memWrite` inside and outside a buffer's length (R14, R52). -/

namespace Sys2Proof.Machine

/-- Reading inside the buffer goes on with the bytes there (R14). -/
theorem memRead_of_le {buf : List Byte} {i n : Nat} (h : i + n ≤ buf.length) (k : List Byte → Answer) :
    memRead buf i n k = k ((buf.drop i).take n) := if_pos h

/-- Reading beyond the buffer is a fault (R52). -/
theorem memRead_of_lt {buf : List Byte} {i n : Nat} (h : buf.length < i + n) (k : List Byte → Answer) :
    memRead buf i n k = .fault .bufferOutOfBounds := if_neg (Nat.not_le.mpr h)

/-- The buffer with `v` laid over its bytes from index `i`: what a write inside the length leaves (`memWrite_of_le`). -/
def splice (buf : List Byte) (i : Nat) (v : List Byte) : List Byte := buf.take i ++ v ++ buf.drop (i + v.length)

/-- Writing inside the buffer goes on with the bytes laid over it (R14). -/
theorem memWrite_of_le {buf v : List Byte} {i : Nat} (h : i + v.length ≤ buf.length) (k : List Byte → Answer) :
    memWrite buf i v k = k (splice buf i v) := if_pos h

/-- Writing beyond the buffer is a fault (log entry 8). -/
theorem memWrite_of_lt {buf v : List Byte} {i : Nat} (h : buf.length < i + v.length) (k : List Byte → Answer) :
    memWrite buf i v k = .fault .bufferOutOfBounds := if_neg (Nat.not_le.mpr h)

/-- A write keeps the buffer's length. -/
theorem length_splice {buf v : List Byte} {i : Nat} (h : i + v.length ≤ buf.length) :
    (splice buf i v).length = buf.length := by
  simp only [splice, List.length_append, List.length_take, List.length_drop]
  omega

/-- The bytes laid over the buffer are found where they were laid. -/
theorem take_drop_splice {buf v : List Byte} {i : Nat} (h : i + v.length ≤ buf.length) :
    ((splice buf i v).drop i).take v.length = v := by
  have hlen : (buf.take i).length = i := List.length_take_of_le (by omega)
  rw [splice, List.append_assoc, List.drop_left' hlen, List.take_left]

/-- What is written is read back (R14). -/
theorem memRead_splice {buf v : List Byte} {i : Nat} (h : i + v.length ≤ buf.length) (k : List Byte → Answer) :
    memRead (splice buf i v) i v.length k = k v := by
  rw [memRead_of_le (by rwa [length_splice h]), take_drop_splice h]

/-- A write leaves every index outside its range alone. -/
theorem getElem?_splice_of_outside {buf v : List Byte} {i j : Nat} (h : i + v.length ≤ buf.length)
    (hj : j < i ∨ i + v.length ≤ j) : (splice buf i v)[j]? = buf[j]? := by
  have hlen : (buf.take i).length = i := List.length_take_of_le (by omega)
  rcases hj with below | above
  · rw [splice, List.append_assoc, List.getElem?_append_left (by omega), List.getElem?_take_of_lt below]
  · have hpre : (buf.take i ++ v).length = i + v.length := by rw [List.length_append, hlen]
    rw [splice, List.getElem?_append_right (by omega), hpre, List.getElem?_drop, Nat.add_sub_cancel' above]

end Sys2Proof.Machine
end

