-- ==== Sys2Proof/Proofs/Scope.lean ====
section
/-! PROOFS. The statements of spec/00_scope.md: the hardwired constants and the access to buffers. -/

namespace Sys2Proof.Proofs

open Machine

/-- Settles O59: each constant is the spec's literal by definition (R8 to R11). -/
theorem constantsAreHardwired : Obligations.ConstantsAreHardwired := by
  unfold Obligations.ConstantsAreHardwired
  decide

/-- Settles O60, by the rules of `memRead` and `memWrite` on both sides of the bound. -/
theorem bufferReadsBackWhatWasWritten : Obligations.BufferReadsBackWhatWasWritten := by
  intro buf v i k
  constructor
  · intro inside
    exact ⟨splice buf i v, memWrite_of_le inside k, length_splice inside, memRead_splice inside k,
      fun _ hj => getElem?_splice_of_outside inside hj⟩
  · intro outside
    exact ⟨memWrite_of_lt outside k, memRead_of_lt outside k⟩

end Sys2Proof.Proofs
end

