-- ==== Sys2Proof/Proofs/StepControl.lean ====
section
/-! PROOFS. What a step does to the control registers `state`, `rate_idx` and `port_open`, and the statements about them
(R31, R32, R170, R198). -/

namespace Sys2Proof.Machine

/-- An index that selects an entry of the table is below 8 (R28, R31). -/
theorem lt_eight_of_baudOf {i : Fin 9} {baud : Nat} (h : baudOf i = some baud) : i.val < 8 :=
  (List.getElem?_eq_some_iff.mp h).1

/-- `rate_idx` as a number after the advance: one more, and 8 at most (R31, R198). -/
theorem nextRate_val (i : Fin 9) : (nextRate i).val = min (i.val + 1) 8 := by
  by_cases h : i.val < 8
  · rw [nextRate_of_lt h]; omega
  · rw [nextRate_of_eight (by omega)]; omega

/-- The reaction to a kind ends the session or goes on, at the same rate and with the same handle (R189 to R195). -/
theorem actOnKind_control {s t : State} (h : actOnKind s = .next t) :
    (t.session = .ended ∨ t.session = .continuing) ∧ t.rateIdx = s.rateIdx ∧ t.portOpen = s.portOpen := by
  obtain ⟨-, rfl⟩ | ⟨n, a, -, -, -, rfl⟩ | ⟨k, -, rfl⟩ := actOnKind_cases h
  · exact ⟨.inl rfl, rfl, rfl⟩
  · exact ⟨.inr rfl, rfl, rfl⟩
  · exact ⟨.inr rfl, rfl, rfl⟩

/-- The moves of the control registers: out of `Idle`, within a session, out of `Ended` (R31, R170). -/
inductive ControlMove (s t : State) : Prop where
  /-- R186 to R188. -/
  | start (hs : s.session = .idle) (hr : s.rateIdx.val < 8) (hi : t.rateIdx = s.rateIdx)
      (ht : t.session = .ended ∨ t.session = .started ∧ t.portOpen = true)
  /-- R188 to R195. -/
  | react (hs : s.session = .started ∨ s.session = .continuing) (hi : t.rateIdx = s.rateIdx) (hp : t.portOpen = s.portOpen)
      (ht : t.session = .ended ∨ t.session = .continuing)
  /-- R198. -/
  | advance (hs : s.session = .ended) (hi : t.rateIdx = nextRate s.rateIdx) (hp : t.portOpen = false) (ht : t.session = .idle)

/-- Every step is one of the three moves. -/
theorem step_controlMove {s t : State} (h : step s = .next t) : ControlMove s t := by
  cases step_cases h with
  | openError baud hs hp hb hd ht => subst ht; exact .start hs (lt_eight_of_baudOf hb) (skippedAt_rateIdx baud s) (.inl rfl)
  | startCut baud hs hp hb hd hw ht => subst ht; exact .start hs (lt_eight_of_baudOf hb) (by simp) (.inl rfl)
  | startParsed baud u hs hp hb hd hw hu ht =>
    subst ht
    obtain ⟨-, -, -, hrate, hport, -⟩ := parseOp_frame hu
    exact .start hs (lt_eight_of_baudOf hb) (by simpa using hrate) (.inr ⟨rfl, hport⟩)
  | reacted hs ht =>
    obtain ⟨hsess, hrate, hport⟩ := actOnKind_control ht
    exact .react (.inl hs) hrate hport hsess
  | continueCut baud hs hp hb hw ht => subst ht; exact .react (.inr hs) (by simp) (by simp) (.inl rfl)
  | continueCutOff hs hp hr hw ht => subst ht; exact .react (.inr hs) (by simp) (by simp) (.inl rfl)
  | continueParsed u hs hp hw hu ht =>
    obtain ⟨-, -, -, hrate, hport, -⟩ := parseOp_frame hu
    obtain ⟨hsess, hrate', hport'⟩ := actOnKind_control ht
    exact .react (.inr hs) (hrate'.trans (by simpa using hrate)) (hport'.trans (by simpa using hport)) hsess
  | ended hs ht =>
    subst ht
    cases hp : s.portOpen with
    | true => exact .advance hs rfl rfl rfl
    | false => exact .advance hs rfl hp rfl

end Sys2Proof.Machine

namespace Sys2Proof.Proofs

open Machine Safety

/-- Settles O46: each of the three moves of the control registers keeps the invariant. -/
theorem stepKeepsControlInv : Obligations.StepKeepsControlInv := by
  intro s t ⟨_, hsession, hswept⟩ hstep
  cases step_controlMove hstep with
  | start hs hr hi ht =>
    have hne : t.rateIdx.val ≠ 8 := by rw [hi]; omega
    rcases ht with ht | ⟨ht, hp⟩
    · simp [ControlInv, ht, hne]
    · simp [ControlInv, ht, hp, hne]
  | react hs hi hp ht =>
    have hport : t.portOpen = true := hp.trans (hsession hs)
    have hne : t.rateIdx.val ≠ 8 := fun he => by simp [hswept (hi ▸ he)] at hs
    rcases ht with ht | ht <;> simp [ControlInv, ht, hport, hne]
  | advance hs hi hp ht => simp [ControlInv, ht, hp]

/-- Settles O44: only the move out of `Ended` advances the rate. -/
theorem rateChangesOnlyAtSessionEnd : Obligations.RateChangesOnlyAtSessionEnd := by
  intro s t hstep
  cases step_controlMove hstep with
  | start hs hr hi ht => rw [hi, hs, if_neg (by simp)]
  | react hs hi hp ht => rw [hi, if_neg (by rcases hs with hs | hs <;> simp [hs])]
  | advance hs hi hp ht => rw [hi, if_pos hs, nextRate_val]

end Sys2Proof.Proofs
end

