-- ==== Sys2Proof/Proofs/Parse.lean ====
section
/-! PROOFS. `DEC.PARSE` taken apart once: its six ends, and what it writes as a function of the bytes received (R148, R149). -/

namespace Sys2Proof.Machine

open Safety

/-- The six ends of a parse: the state each leaves, and the tests that lead there (R142 to R148). -/
inductive ParseCase (s t : State) : Prop where
  /-- R142. -/
  | empty (h : s.rxRaw = []) (ht : t = parsed .scanComplete s)
  /-- R143. -/
  | short (h : s.rxRaw ≠ []) (hn : (denoise s.rxRaw).length < 5) (ht : t = parsed .malformedFrame (denoiseOp s))
  /-- R144. -/
  | mismatch (h : s.rxRaw ≠ []) (hn : 5 ≤ (denoise s.rxRaw).length) (hc : (validated (denoiseOp s)).crcOk = false)
      (ht : t = parsed .checksumMismatch (validated (denoiseOp s)))
  /-- R145, R146. -/
  | header (k : Kind) (h : s.rxRaw ≠ []) (hn : 5 ≤ (denoise s.rxRaw).length) (hc : (validated (denoiseOp s)).crcOk = true)
      (hk : headerKind (denoise s.rxRaw) = some k) (ht : t = parsed k (validated (denoiseOp s)))
  /-- R147, a device record of the wrong length. -/
  | record (h : s.rxRaw ≠ []) (hn : 5 ≤ (denoise s.rxRaw).length) (hc : (validated (denoiseOp s)).crcOk = true)
      (hk : headerKind (denoise s.rxRaw) = none) (hl : (denoise s.rxRaw).length ≠ 10)
      (ht : t = parsed .malformedDeviceRecord (validated (denoiseOp s)))
  /-- R147, a device. -/
  | device (h : s.rxRaw ≠ []) (hc : (validated (denoiseOp s)).crcOk = true)
      (hk : headerKind (denoise s.rxRaw) = none) (hl : (denoise s.rxRaw).length = 10)
      (ht : t = parsed .deviceFound (withDevice (validated (denoiseOp s))))

/-- What a parse did, from its answer. -/
theorem parseOp_cases {s t : State} (h : parseOp s = .next t) : ParseCase s t := by
  have eq_of_answer {u : State} (hu : parseOp s = .next u) : t = u := Host.Outcome.next.inj (h.symm.trans hu)
  by_cases he : s.rxRaw = []
  · exact .empty he (eq_of_answer (parseOp_empty he))
  by_cases hn : (denoise s.rxRaw).length < 5
  · exact .short he hn (eq_of_answer (parseOp_short he hn))
  have hn := Nat.not_lt.mp hn
  cases hc : (validated (denoiseOp s)).crcOk with
  | false => exact .mismatch he hn hc (eq_of_answer (parseOp_mismatch he hn hc))
  | true =>
    cases hk : headerKind (denoise s.rxRaw) with
    | some k => exact .header k he hn hc hk (eq_of_answer (parseOp_header he hn hc hk))
    | none =>
      by_cases hl : (denoise s.rxRaw).length = 10
      · exact .device he hc hk hl (eq_of_answer (parseOp_device he hc hk hl))
      · exact .record he hn hc hk hl (eq_of_answer (parseOp_record he hn hc hk hl))

@[simp] theorem parsed_kind (k : Kind) (s : State) : (parsed k s).kind = k := recordKind_kind _ _

@[simp] theorem parsed_serial (k : Kind) (s : State) : (parsed k s).serial = if k = .deviceFound then s.serial else none := by
  simp [parsed]

@[simp] theorem parsed_busAddr (k : Kind) (s : State) : (parsed k s).busAddr = if k = .deviceFound then s.busAddr else none := by
  simp [parsed]

/-! ### The decision tree -/

/-- The checksum test as a function of the frame alone (R86, R144); `validated_crcOk` ties it to the validator. -/
def goodChecksum (f : List Byte) : Bool :=
  crcOkOf (le16 (byteAt f (f.length - 2)) (byteAt f (f.length - 1))) (checksum (f.take (f.length - 2)))

theorem validated_crcOk (s : State) : (validated s).crcOk = goodChecksum s.frm := rfl

/-- The validator's test is the decision tree's comparison of two numbers (R144, R149). -/
theorem goodChecksum_iff (f : List Byte) :
    goodChecksum f = true ↔
      (byteAt f (f.length - 1)).toNat * 256 + (byteAt f (f.length - 2)).toNat = (checksum (f.take (f.length - 2))).toNat := by
  rw [goodChecksum, crcOkOf, beq_iff_eq, ← BitVec.toNat_inj, le16_toNat]

/-- The decision tree in the words of the decoder's steps (R149). -/
theorem parseTree_eq (raw : List Byte) :
    parseTree raw =
      if raw = [] then .scanComplete
      else if (denoise raw).length < 5 then .malformedFrame
      else if goodChecksum (denoise raw) = true then
        (headerKind (denoise raw)).getD (if (denoise raw).length = 10 then .deviceFound else .malformedDeviceRecord)
      else .checksumMismatch := by
  have hf : raw.filter (fun b => b != 0xFF#8) = denoise raw := (denoise_eq_filter raw).symm
  simp only [parseTree, hf, headerKind, goodChecksum_iff, ne_eq, ite_not]
  split_ifs <;> rfl

/-- A parse ends with the decision tree's kind (R149). -/
theorem parseOp_kind {s t : State} (h : parseOp s = .next t) : t.kind = parseTree s.rxRaw := by
  rw [parseTree_eq]
  cases parseOp_cases h with
  | empty h ht => simp [ht, h]
  | short h hn ht => simp [ht, h, hn]
  | mismatch h hn hc ht =>
    rw [validated_crcOk, denoiseOp_frm] at hc
    simp [ht, h, hn, hc]
  | header k h hn hc hk ht =>
    rw [validated_crcOk, denoiseOp_frm] at hc
    simp [ht, h, hn, hc, hk]
  | record h hn hc hk hl ht =>
    rw [validated_crcOk, denoiseOp_frm] at hc
    simp [ht, h, hn, hc, hk, hl]
  | device h hc hk hl ht =>
    rw [validated_crcOk, denoiseOp_frm] at hc
    simp [ht, h, hc, hk, hl]

/-- The serial number of the decision tree is the big-endian value of four bytes (R87, R147). -/
theorem treeSerial_eq (raw : List Byte) :
    treeSerial raw =
      be32 (byteAt (denoise raw) 3) (byteAt (denoise raw) 4) (byteAt (denoise raw) 5) (byteAt (denoise raw) 6) := by
  have hf : raw.filter (fun b => b != 0xFF#8) = denoise raw := (denoise_eq_filter raw).symm
  rw [treeSerial, hf, ← be32_toNat, BitVec.ofNat_toNat, BitVec.setWidth_eq]

theorem treeBusAddr_eq (raw : List Byte) : treeBusAddr raw = byteAt (denoise raw) 7 := by
  rw [denoise_eq_filter]; rfl

/-- The device fields after a parse: the frame's with `DeviceFound`, else none (R30, R147). -/
theorem parseOp_device_fields {s t : State} (h : parseOp s = .next t) :
    t.serial = (if t.kind = .deviceFound then some (treeSerial s.rxRaw) else none) ∧
      t.busAddr = (if t.kind = .deviceFound then some (treeBusAddr s.rxRaw) else none) := by
  cases parseOp_cases h with
  | empty h ht => simp [ht]
  | short h hn ht => simp [ht]
  | mismatch h hn hc ht => simp [ht]
  | header k h hn hc hk ht =>
    have hne : k ≠ .deviceFound := fun e => headerKind_ne_deviceFound _ (e ▸ hk)
    simp [ht, hne]
  | record h hn hc hk hl ht => simp [ht]
  | device h hc hk hl ht =>
    rw [treeSerial_eq, treeBusAddr_eq]
    simp [ht, withDevice, validated]

end Sys2Proof.Machine
end

