-- ==== Sys2Proof/Proofs/DataInv.lean ====
section
/-! PROOFS. The invariant of the data registers: its two halves, and what the steps of an exchange do to each (R24 to R26, R30, R91). -/

namespace Sys2Proof.Machine

open Safety

/-- The half of `DataInv` about the buffers and the checksum registers. -/
structure BufferInv (s : State) : Prop where
  rxMax : 10 ≤ s.params.rxMax
  rxRaw : s.rxRaw.length ≤ s.params.rxMax
  frmLen : s.frm.length ≤ s.params.rxMax
  frm : ∀ b ∈ s.frm, NotFill b
  declaredLo : NotFill (crcLo s.declared)
  declaredHi : NotFill (crcHi s.declared)
  crcOk : s.crcOk = true ↔ s.declared = s.computed

/-- The half of `DataInv` about the device fields. -/
structure DeviceInv (s : State) : Prop where
  serial : s.serial.isSome = true ↔ s.kind = .deviceFound
  busAddr : s.busAddr.isSome = true ↔ s.kind = .deviceFound
  serialBytes : ∀ v ∈ s.serial, ∀ b ∈ serialBytes v, NotFill b
  busAddrByte : ∀ b ∈ s.busAddr, NotFill b

theorem dataInv_iff (s : State) : DataInv s ↔ BufferInv s ∧ DeviceInv s := by
  constructor
  · rintro ⟨h1, h2, h3, h4, h5, h6, h7, h8, h9, h10, h11⟩
    exact ⟨⟨h1, h2, h3, h4, h5, h6, h7⟩, ⟨h8, h9, h10, h11⟩⟩
  · rintro ⟨⟨h1, h2, h3, h4, h5, h6, h7⟩, ⟨h8, h9, h10, h11⟩⟩
    exact ⟨h1, h2, h3, h4, h5, h6, h7, h8, h9, h10, h11⟩

/-- A byte of a frame that survived denoising (R91). -/
theorem byteAt_mem {f : List Byte} {i : Nat} (h : i < f.length) : byteAt f i ∈ f := by
  rw [byteAt, List.getD_eq_getElem _ _ h]; exact List.getElem_mem h

/-! ### The buffers -/

/-- A receive is cut to the capacity of `rx_raw` (R24, R214). -/
theorem BufferInv.heard {s : State} (h : BufferInv s) : BufferInv (heard s) :=
  { h with rxRaw := heard_rxRaw_le s }

/-- Denoising never lengthens and leaves no fill byte (R25, R91). -/
theorem BufferInv.denoiseOp {s : State} (h : BufferInv s) : BufferInv (denoiseOp s) :=
  { h with
    frmLen := (denoise_length_le s.rxRaw).trans h.rxRaw
    frm := fun _ hb => not_fill_of_mem_denoise hb }

/-- The validator takes `declared` from the frame and sets `crc_ok` by the comparison (R26, R91, R144). -/
theorem BufferInv.validated {s : State} (h : BufferInv s) (hn : 5 ≤ s.frm.length) : BufferInv (validated s) :=
  { h with
    declaredLo := by rw [Machine.validated, crcLo_le16]; exact h.frm _ (byteAt_mem (by omega))
    declaredHi := by rw [Machine.validated, crcHi_le16]; exact h.frm _ (byteAt_mem (by omega))
    crcOk := beq_iff_eq }

/-- The end of a parse writes no buffer and no checksum register (R148). -/
theorem BufferInv.parsed {s : State} (h : BufferInv s) (k : Kind) : BufferInv (parsed k s) := by
  obtain ⟨h1, h2, h3, h4, h5, h6, h7⟩ := h
  constructor <;> simpa [Machine.parsed]

/-! ### The device fields -/

/-- With any kind but `DeviceFound` the device fields hold no value (R30). -/
theorem deviceInv_parsed {k : Kind} (hk : k ≠ .deviceFound) (s : State) : DeviceInv (parsed k s) := by
  constructor <;> simp [hk]

/-- A device's fields are bytes of its frame (R87, R91, R147). -/
theorem deviceInv_device {s : State} (hl : s.frm.length = 10) (hf : ∀ b ∈ s.frm, NotFill b) :
    DeviceInv (parsed .deviceFound (withDevice s)) := by
  have hb : ∀ i < 10, NotFill (byteAt s.frm i) := fun i hi => hf _ (byteAt_mem (by omega))
  constructor
  · simp [withDevice]
  · simp [withDevice]
  · simp [withDevice, hb]
  · simp [withDevice, hb]

/-! ### The transitions -/

/-- A parse keeps the buffers' half and sets up the device fields' half, whatever they held. -/
theorem parseOp_dataInv {s t : State} (h : BufferInv s) (ht : parseOp s = .next t) : DataInv t := by
  rw [dataInv_iff]
  have hd : BufferInv (denoiseOp s) := h.denoiseOp
  cases parseOp_cases ht with
  | empty _ ht => subst ht; exact ⟨h.parsed _, deviceInv_parsed (by simp) _⟩
  | short _ _ ht => subst ht; exact ⟨hd.parsed _, deviceInv_parsed (by simp) _⟩
  | mismatch _ hn _ ht => subst ht; exact ⟨(hd.validated hn).parsed _, deviceInv_parsed (by simp) _⟩
  | header k _ hn _ hk ht =>
    subst ht
    exact ⟨(hd.validated hn).parsed _, deviceInv_parsed (fun e => headerKind_ne_deviceFound _ (e ▸ hk)) _⟩
  | record _ hn _ _ _ ht => subst ht; exact ⟨(hd.validated hn).parsed _, deviceInv_parsed (by simp) _⟩
  | device _ _ _ hl ht =>
    subst ht
    have hv : BufferInv (validated (denoiseOp s)) := hd.validated (by simp [hl])
    exact ⟨BufferInv.parsed (s := withDevice (validated (denoiseOp s))) { hv with } _, deviceInv_device hl hv.frm⟩

/-- What an exchange whose write succeeded leaves after its parse (R185). -/
theorem exchange_dataInv {sub : Byte} {s t : State} (h : DataInv s) (ht : parseOp (heard (commanded sub s)) = .next t) :
    DataInv t := by
  have hc : DataInv (commanded sub s) := by simpa [DataInv] using h
  exact parseOp_dataInv ((dataInv_iff _).mp hc).1.heard ht

/-- An exchange whose write failed touches none of the registers of the invariant (R188). -/
theorem dataInv_cutShortAt {baud : Nat} {sub : Byte} {s : State} (h : DataInv s) : DataInv (cutShortAt baud sub s) := by
  simpa [DataInv] using h

/-- An open touches none of them (R186). -/
theorem dataInv_openedAt {baud : Nat} {s : State} (h : DataInv s) : DataInv (openedAt baud s) := by
  simpa [DataInv] using h

/-- The reaction to a kind touches none of them (R189 to R195). -/
theorem actOnKind_dataInv {s t : State} (h : DataInv s) (ht : actOnKind s = .next t) : DataInv t := by
  obtain ⟨-, rfl⟩ | ⟨n, a, -, -, -, rfl⟩ | ⟨k, -, rfl⟩ := actOnKind_cases ht
  · exact h
  · exact h
  · exact h

end Sys2Proof.Machine

namespace Sys2Proof.Proofs

open Machine Safety

/-- Settles O47: only a receive and a parse write registers of the invariant; a receive keeps the half about the buffers, and the parse
after it sets up the half about the device anew. -/
theorem stepKeepsDataInv : Obligations.StepKeepsDataInv := by
  intro s t h hstep
  cases step_cases hstep with
  | openError _ _ _ _ _ ht => subst ht; simpa [DataInv] using h
  | startCut _ _ _ _ _ _ ht => subst ht; exact dataInv_cutShortAt (dataInv_openedAt h)
  | startParsed _ u _ _ _ _ _ hu ht =>
    subst ht
    have hparsed : DataInv u := exchange_dataInv (dataInv_openedAt h) hu
    exact hparsed
  | reacted _ ht => exact actOnKind_dataInv h ht
  | continueCut _ _ _ _ _ ht => subst ht; exact dataInv_cutShortAt h
  | continueCutOff _ _ _ _ ht => subst ht; simpa [DataInv] using h
  | continueParsed u _ _ _ hu ht => exact actOnKind_dataInv (exchange_dataInv h hu) ht
  | ended _ ht => subst ht; split <;> exact h

end Sys2Proof.Proofs
end

