-- ==== Sys2Proof/Proofs/ReporterInv.lean ====
section
/-! PROOFS. The reporter follows the reports of the trace (R34, R223). -/

namespace Sys2Proof.Safety

open Machine

/-- The reports of two traces in turn. -/
@[simp] theorem reported_append (xs ys : List Event) : reported (xs ++ ys) = reported xs ++ reported ys := by
  induction xs with
  | nil => rfl
  | cons x xs ih => cases x <;> simp [reported, ih]

/-- One more row stands at the end, under the number after the last (R223). -/
theorem rowsFrom_append (n : Nat) (ds : List (Word32 × Byte)) (serial : Word32) (busAddr : Byte) :
    rowsFrom n (ds ++ [(serial, busAddr)]) = rowsFrom n ds ++ [.row (n + ds.length) serial busAddr] := by
  induction ds generalizing n with
  | nil => rfl
  | cons d ds ih => simp [rowsFrom, ih, Nat.add_assoc, Nat.add_comm 1]

/-- The output after one more device: the header before the first, then the next row (R223). -/
theorem expectedOutput_append (ds : List (Word32 × Byte)) (serial : Word32) (busAddr : Byte) :
    expectedOutput (ds ++ [(serial, busAddr)]) =
      expectedOutput ds ++ (if ds = [] then [.header] else []) ++ [.row (ds.length + 1) serial busAddr] := by
  cases ds with
  | nil => rfl
  | cons d ds =>
    have h : d :: ds ++ [(serial, busAddr)] ≠ [] := by simp
    rw [expectedOutput, if_neg h, rowsFrom_append]
    simp [expectedOutput, Nat.add_comm]

/-- What happens to the reporter and to the reports of the trace: nothing, or one device is handed over (R222, R223). -/
inductive ReportMove (s t : State) : Prop where
  | silent (hr : t.reporter = s.reporter) (he : reported t.events = reported s.events)
  | device (serial : Word32) (busAddr : Byte) (hr : t.reporter = s.reporter.accept serial busAddr)
      (he : reported t.events = reported s.events ++ [(serial, busAddr)])

/-- A parse reports nothing (R36). -/
theorem parseOp_reported {s t : State} (h : parseOp s = .next t) :
    t.reporter = s.reporter ∧ reported t.events = reported s.events := by
  obtain ⟨-, -, -, -, -, hr, -, he, -⟩ := parseOp_frame h
  exact ⟨hr, by rw [he]⟩

/-- The reaction to a kind reports a found device and nothing else (R189 to R195). -/
theorem actOnKind_reportMove {s t : State} (h : actOnKind s = .next t) : ReportMove s t := by
  obtain ⟨-, rfl⟩ | ⟨n, a, -, -, -, rfl⟩ | ⟨k, -, rfl⟩ := actOnKind_cases h
  · exact .silent rfl rfl
  · exact .device n a rfl (by simp [reported])
  · exact .silent rfl (by simp [reported])

/-- Everything an exchange emits before its parse is no report (R185). -/
theorem reported_heard_commanded (sub : Byte) (s : State) : reported (heard (commanded sub s)).events = reported s.events := by
  simp [heard, commanded, reported]

theorem reported_cutShortAt (baud : Nat) (sub : Byte) (s : State) :
    reported (cutShortAt baud sub s).events = reported s.events := by
  simp [cutShortAt, commanded, reported]

theorem reported_openedAt (baud : Nat) (s : State) : reported (openedAt baud s).events = reported s.events := by
  simp [openedAt, reported]

/-- A step reports one device or none, and the reporter is handed what the trace records. -/
theorem step_reportMove {s t : State} (h : step s = .next t) : ReportMove s t := by
  cases step_cases h with
  | openError baud hs hp hb hd ht => subst ht; exact .silent (by simp) (by simp [skippedAt, reported])
  | startCut baud hs hp hb hd hw ht =>
    subst ht
    exact .silent (by simp) (by rw [reported_cutShortAt, reported_openedAt])
  | startParsed baud u hs hp hb hd hw hu ht =>
    subst ht
    obtain ⟨hr, he⟩ := parseOp_reported hu
    rw [reported_heard_commanded, reported_openedAt] at he
    exact .silent (by simpa using hr) he
  | reacted hs ht => exact actOnKind_reportMove ht
  | continueCut baud hs hp hb hw ht => subst ht; exact .silent (by simp) (reported_cutShortAt _ _ s)
  | continueCutOff hs hp hr hw ht => subst ht; exact .silent (by simp) (by simp [cutShortAt, commanded, reported])
  | continueParsed u hs hp hw hu ht =>
    obtain ⟨hr, he⟩ := parseOp_reported hu
    rw [reported_heard_commanded] at he
    have hr : u.reporter = s.reporter := by simpa using hr
    cases actOnKind_reportMove ht with
    | silent hr' he' => exact .silent (hr'.trans hr) (he'.trans he)
    | device n a hr' he' => exact .device n a (hr ▸ hr') (he ▸ he')
  | ended hs ht =>
    subst ht
    split
    · exact .silent rfl (by simp [reported])
    · exact .silent rfl rfl

end Sys2Proof.Safety

namespace Sys2Proof.Proofs

open Machine Safety

/-- Settles O49: a step without a report changes neither side, and a report moves both by one device. -/
theorem stepKeepsReporterInv : Obligations.StepKeepsReporterInv := by
  intro s t ⟨hcount, hheader, hout⟩ hstep
  cases step_reportMove hstep with
  | silent hr he =>
    rw [ReporterInv, hr, he]
    exact ⟨hcount, hheader, hout⟩
  | device serial busAddr hr he =>
    have hflag : (if s.reporter.headerPrinted then [] else [ReportItem.header]) =
        if reported s.events = [] then [.header] else [] := by
      by_cases hds : reported s.events = [] <;> simp_all
    rw [ReporterInv, hr, he, expectedOutput_append]
    exact ⟨by simp [Reporter.accept, hcount], by simp [Reporter.accept],
      by rw [Reporter.accept, hout, hflag, hcount]⟩

end Sys2Proof.Proofs
end

