-- ==== Sys2Proof/Proofs/Noninterference.lean ====
section
/-! PROOFS. Two states that agree outside the data registers step alike: each operation of a transition, run in both, keeps them in
agreement, and a parse makes them agree on what the sequencer reads next (R37, R182). -/

namespace Sys2Proof.Safety

open Machine

/-- Agreement outside the core's data registers: the unconditional part of `SameButData`. -/
structure Agree (s t : State) : Prop where
  session : s.session = t.session
  rateIdx : s.rateIdx = t.rateIdx
  portOpen : s.portOpen = t.portOpen
  reporter : s.reporter = t.reporter
  answers : s.answers = t.answers
  events : s.events = t.events
  params : s.params = t.params
  freeCount : s.freeCount = t.freeCount

/-- Agreement on the registers too that the reaction to a kind reads. -/
structure AgreeParsed (s t : State) : Prop extends Agree s t where
  kind : s.kind = t.kind
  rxRaw : s.rxRaw = t.rxRaw
  serial : s.serial = t.serial
  busAddr : s.busAddr = t.busAddr

theorem SameButData.agree {s t : State} (h : SameButData s t) : Agree s t := by
  obtain ⟨h1, h2, h3, h4, h5, h6, h7, h8, -⟩ := h
  exact ⟨h1, h2, h3, h4, h5, h6, h7, h8⟩

theorem SameButData.agreeParsed {s t : State} (h : SameButData s t) (hs : s.session = .started) : AgreeParsed s t := by
  have hagree : Agree s t := h.agree
  obtain ⟨-, -, -, -, -, -, -, -, hstarted⟩ := h
  obtain ⟨hk, hraw, hn, ha⟩ := hstarted hs
  exact { hagree with kind := hk, rxRaw := hraw, serial := hn, busAddr := ha }

/-- In every control state but `Started` agreement outside the data registers is all that is asked. -/
theorem Agree.sameButData {s t : State} (h : Agree s t) (hs : s.session ≠ .started) : SameButData s t :=
  ⟨h.session, h.rateIdx, h.portOpen, h.reporter, h.answers, h.events, h.params, h.freeCount, fun e => absurd e hs⟩

theorem AgreeParsed.sameButData {s t : State} (h : AgreeParsed s t) : SameButData s t :=
  ⟨h.session, h.rateIdx, h.portOpen, h.reporter, h.answers, h.events, h.params, h.freeCount,
    fun _ => ⟨h.kind, h.rxRaw, h.serial, h.busAddr⟩⟩

/-! ### The operations of a transition keep agreement -/

section
variable {s t : State}

theorem Agree.setSession (h : Agree s t) (x : Session) : Agree (setSession x s) (setSession x t) := { h with session := rfl }

theorem AgreeParsed.setSession (h : AgreeParsed s t) (x : Session) : AgreeParsed (setSession x s) (setSession x t) :=
  { h with session := rfl }

theorem Agree.setPort (h : Agree s t) (v : Bool) : Agree (setPort v s) (setPort v t) := { h with portOpen := rfl }

theorem Agree.setResult (h : Agree s t) (r : Result) : Agree (setResult r s) (setResult r t) := { h with }

theorem Agree.emit (h : Agree s t) (e : Event) : Agree (emit e s) (emit e t) := { h with events := by simp [h.events] }

theorem Agree.advanceRate (h : Agree s t) : Agree (advanceRate s) (advanceRate t) :=
  { h with session := rfl, rateIdx := by simp [h.rateIdx] }

/-- The rate read, and the count of free values after it. -/
theorem Agree.drawBaud (h : Agree s t) : (drawBaud s).1 = (drawBaud t).1 ∧ Agree (drawBaud s).2 (drawBaud t).2 := by
  unfold Machine.drawBaud
  rw [← h.rateIdx, ← h.freeCount]
  split
  · exact ⟨rfl, h⟩
  · exact ⟨rfl, { h with rateIdx := rfl, freeCount := rfl }⟩

theorem Agree.openedAt (h : Agree s t) (baud : Nat) : Agree (openedAt baud s) (openedAt baud t) := by
  obtain ⟨-, hans, hfree⟩ := drawOpen_congr h.answers h.freeCount
  exact { h with
    portOpen := rfl, answers := hans, freeCount := hfree, events := by simp [Machine.openedAt, h.events, h.params] }

theorem Agree.skippedAt (h : Agree s t) (baud : Nat) : Agree (skippedAt baud s) (skippedAt baud t) := by
  obtain ⟨-, hans, hfree⟩ := drawOpen_congr h.answers h.freeCount
  exact { h with
    session := rfl, answers := hans, freeCount := hfree, events := by simp [Machine.skippedAt, h.events, h.params] }

theorem Agree.commanded (h : Agree s t) (sub : Byte) : Agree (commanded sub s) (commanded sub t) := by
  obtain ⟨hw, hans, hfree⟩ := drawWrite_congr h.answers h.freeCount
  exact { h with answers := hans, freeCount := hfree, events := by simp [Machine.commanded, h.events, hw] }

theorem Agree.heard (h : Agree s t) : Agree (heard s) (heard t) ∧ (heard s).rxRaw = (heard t).rxRaw := by
  obtain ⟨hraw, hans, hfree⟩ := drawReceive_congr h.answers h.freeCount
  refine ⟨{ h with answers := hans, freeCount := hfree, events := ?_ }, ?_⟩
  · simp [Machine.heard, h.events, h.params, hraw]
  · simp [Machine.heard, h.params, hraw]

/-- What a parse leaves for the sequencer depends on the bytes received alone (R149). -/
theorem Agree.parseOp {u v : State} (h : Agree s t) (hraw : s.rxRaw = t.rxRaw) (hu : parseOp s = .next u)
    (hv : parseOp t = .next v) : AgreeParsed u v := by
  obtain ⟨-, uraw, usess, urate, uport, urep, uans, uev, upar, ufree⟩ := parseOp_frame hu
  obtain ⟨-, vraw, vsess, vrate, vport, vrep, vans, vev, vpar, vfree⟩ := parseOp_frame hv
  obtain ⟨userial, ubus⟩ := parseOp_device_fields hu
  obtain ⟨vserial, vbus⟩ := parseOp_device_fields hv
  have hkind : u.kind = v.kind := by rw [parseOp_kind hu, parseOp_kind hv, hraw]
  exact {
    session := by rw [usess, vsess, h.session]
    rateIdx := by rw [urate, vrate, h.rateIdx]
    portOpen := by rw [uport, vport, h.portOpen]
    reporter := by rw [urep, vrep, h.reporter]
    answers := by rw [uans, vans, h.answers]
    events := by rw [uev, vev, h.events]
    params := by rw [upar, vpar, h.params]
    freeCount := by rw [ufree, vfree, h.freeCount]
    kind := hkind
    rxRaw := by rw [uraw, vraw, hraw]
    serial := by rw [userial, vserial, hkind, hraw]
    busAddr := by rw [ubus, vbus, hkind, hraw] }

end

/-! ### The transitions answer alike -/

/-- Two answers alike: next states that agree, or one fault. -/
inductive Alike : Answer → Answer → Prop where
  | next {s t : State} (h : SameButData s t) : Alike (.next s) (.next t)
  | fault (r : Fault) : Alike (.fault r) (.fault r)

section
variable {s t : State}

/-- A found device without its fields cannot be reported (R30, U4). -/
theorem actOnKind_noDevice (hc : classOf s.kind = .found) (h : s.serial = none ∨ s.busAddr = none) :
    actOnKind s = .fault .noDevice := by
  rcases hn : s.serial with _ | n
  · simp [actOnKind, hc, reportOp, hn]
  · have ha : s.busAddr = none := h.resolve_left (by simp [hn])
    simp [actOnKind, hc, reportOp, hn, ha]

/-- The reaction to a kind reads the kind, the bytes and the device, and no other data register (R189 to R195). -/
theorem AgreeParsed.actOnKind (h : AgreeParsed s t) : Alike (actOnKind s) (actOnKind t) := by
  cases hc : classOf s.kind with
  | terminal =>
    rw [actOnKind_terminal hc, actOnKind_terminal (h.kind ▸ hc)]
    exact .next ((h.toAgree.setSession .ended).sameButData (by simp))
  | absorbed k =>
    rw [actOnKind_absorbed hc, actOnKind_absorbed (h.kind ▸ hc), h.rxRaw]
    exact .next (((h.toAgree.emit _).setSession .continuing).sameButData (by simp))
  | found =>
    rcases hn : s.serial with _ | n
    · rw [actOnKind_noDevice hc (.inl hn), actOnKind_noDevice (h.kind ▸ hc) (.inl (h.serial ▸ hn))]
      exact .fault _
    rcases ha : s.busAddr with _ | a
    · rw [actOnKind_noDevice hc (.inr ha), actOnKind_noDevice (h.kind ▸ hc) (.inr (h.busAddr ▸ ha))]
      exact .fault _
    have hk : s.kind = .deviceFound := by cases hk : s.kind <;> simp [hk, classOf] at hc; rfl
    rw [actOnKind_found hk hn ha, actOnKind_found (h.kind ▸ hk) (h.serial ▸ hn) (h.busAddr ▸ ha)]
    have hrep : Agree { s with reporter := s.reporter.accept n a } { t with reporter := t.reporter.accept n a } :=
      { h.toAgree with reporter := by rw [h.reporter] }
    exact .next (((hrep.emit _).setSession .continuing).sameButData (by simp))

/-- The reaction to a failed write (R188). -/
theorem Agree.writeFailed (h : Agree s t) : Alike (writeFailed s) (writeFailed t) := by
  obtain ⟨hbaud, hdrawn⟩ := h.drawBaud
  rw [writeFailed_rate, writeFailed_rate, hbaud]
  exact .next (((hdrawn.emit _).setSession .ended).sameButData (by simp))

/-- An exchange and the reaction `f` to what was heard, in either transition: alike where `f` is (R185, R186, R192). -/
theorem Agree.exchange (h : Agree s t) (hp : s.portOpen = true) (sub : Byte) {f : State → Answer}
    (hf : ∀ u v, AgreeParsed u v → Alike (f u) (f v)) :
    Alike (andThen (exchangeOp sub s) fun x => if x.result = .transportWriteError then Machine.writeFailed x else f x)
      (andThen (exchangeOp sub t) fun x => if x.result = .transportWriteError then Machine.writeFailed x else f x) := by
  have hp' : t.portOpen = true := h.portOpen ▸ hp
  have hw' : (drawWrite s).1 = (drawWrite t).1 := (drawWrite_congr h.answers h.freeCount).1
  cases hw : (drawWrite s).1 with
  | writeError =>
    rw [exchangeOp_writeError hp hw, exchangeOp_writeError hp' (hw' ▸ hw), andThen_next, andThen_next,
      if_pos (setResult_result _ _), if_pos (setResult_result _ _)]
    exact ((h.commanded sub).setResult _).writeFailed
  | written =>
    obtain ⟨u, hu, -, eu⟩ := exchange_parsed (sub := sub) hp hw f
    obtain ⟨v, hv, -, ev⟩ := exchange_parsed (sub := sub) hp' (hw' ▸ hw) f
    obtain ⟨hheard, hraw⟩ := (h.commanded sub).heard
    rw [eu, ev]
    exact hf u v (hheard.parseOp hraw hu hv)

/-- The transition out of `Idle` (R186 to R188). -/
theorem Agree.startTransition (h : Agree s t) (hs : s.session = .idle) (hr : s.rateIdx.val < 8) :
    Alike (startTransition s) (startTransition t) := by
  have hs' : t.session = .idle := h.session ▸ hs
  have hr' : t.rateIdx.val < 8 := h.rateIdx ▸ hr
  obtain ⟨baud, hb, -⟩ := baudOf_of_lt hr
  have hb' : baudOf t.rateIdx = some baud := h.rateIdx ▸ hb
  cases hp : s.portOpen with
  | true =>
    have held {x : State} (hs : x.session = .idle) (hr : x.rateIdx.val < 8) (hp : x.portOpen = true) :
        Machine.startTransition x = .fault .portAlreadyOpen := by
      rw [Machine.startTransition, if_pos ⟨hs, hr⟩, openOp, if_pos hp, andThen_fault]
    rw [held hs hr hp, held hs' hr' (h.portOpen ▸ hp)]
    exact .fault _
  | false =>
    have hp' : t.portOpen = false := h.portOpen ▸ hp
    have hd' : (drawOpen s).1 = (drawOpen t).1 := (drawOpen_congr h.answers h.freeCount).1
    cases hd : (drawOpen s).1 with
    | openError =>
      rw [startTransition_openError hs hp hb hr hd, startTransition_openError hs' hp' hb' hr' (hd' ▸ hd)]
      exact .next ((h.skippedAt baud).sameButData (by simp))
    | opened =>
      rw [startTransition_opened hs hp hb hr hd, startTransition_opened hs' hp' hb' hr' (hd' ▸ hd)]
      exact (h.openedAt baud).exchange rfl subStart fun u v huv => .next (huv.setSession .started).sameButData

/-- The step taken in `Continuing` (R192), stopped by a missing handle in both states. -/
theorem Agree.step_continuing (h : Agree s t) (hs : s.session = .continuing) : Alike (step s) (step t) := by
  rw [Machine.step_continuing hs, Machine.step_continuing (h.session ▸ hs)]
  cases hp : s.portOpen with
  | true => exact h.exchange hp subContinue fun u v huv => huv.actOnKind
  | false =>
    rw [exchangeOp, exchangeOp, requirePort_of_closed hp, requirePort_of_closed (h.portOpen ▸ hp)]
    exact .fault _

/-- The transition out of `Ended` (R198). -/
theorem Agree.step_ended (h : Agree s t) (hs : s.session = .ended) : Alike (step s) (step t) := by
  rw [Machine.step_ended hs, Machine.step_ended (h.session ▸ hs), ← h.portOpen]
  split
  · exact .next (((h.setPort false).emit .close).advanceRate.sameButData (by simp))
  · exact .next (h.advanceRate.sameButData (by simp))

/-- Two states that agree outside the unspecified registers step alike. -/
theorem step_alike (h : SameButData s t) : Alike (step s) (step t) := by
  have ha : Agree s t := h.agree
  cases hs : s.session with
  | idle =>
    have hs' : t.session = .idle := ha.session ▸ hs
    by_cases hr : s.rateIdx.val < 8
    · rw [step_idle hs hr, step_idle hs' (ha.rateIdx ▸ hr)]
      exact ha.startTransition hs hr
    · have hr : s.rateIdx.val = 8 := by omega
      rw [step_swept hs hr, step_swept hs' (ha.rateIdx ▸ hr)]
      exact .fault _
  | started =>
    rw [step_started hs, step_started (ha.session ▸ hs)]
    exact (h.agreeParsed hs).actOnKind
  | continuing => exact ha.step_continuing hs
  | ended => exact ha.step_ended hs

end

end Sys2Proof.Safety

namespace Sys2Proof.Proofs

open Machine Safety

/-- Settles O54: the second state's answer is like the first's (`step_alike`), which leaves one form for it in each case. -/
theorem unspecifiedRegistersDoNotMatter : Obligations.UnspecifiedRegistersDoNotMatter := by
  intro s t h
  have ha : Alike (step s) (step t) := step_alike h
  constructor
  · intro s' hs
    rw [hs] at ha
    generalize step t = answer at ha ⊢
    cases ha with
    | next h' => exact ⟨_, rfl, h'⟩
  · intro r hs
    rw [hs] at ha
    generalize step t = answer at ha ⊢
    cases ha with
    | fault => rfl

end Sys2Proof.Proofs
end

