-- ==== Sys2Proof/Proofs/Reset.lean ====
section
/-! PROOFS. The state after reset (R37, R260). -/

namespace Sys2Proof.Proofs

open Machine Safety

/-- Settles O56: each is the value written in `State.reset` (R37). -/
theorem resetValuesOfTheSpec : Obligations.ResetValuesOfTheSpec :=
  ⟨rfl, rfl, rfl, rfl, rfl, rfl, rfl, rfl⟩

/-- Settles O50: nothing has been received, parsed, reported or emitted, and `RX_MAX` is 10 and more by its definition (R12). -/
theorem resetMeetsInvariants : Obligations.ResetMeetsInvariants := by
  refine ⟨?control, ?data, ?started, ?trace, ?reporter⟩
  case control => simp [ControlInv, State.reset]
  case data =>
    have hmax : 10 ≤ State.reset.params.rxMax := Nat.le_add_left 10 Config.rxSlack
    refine ⟨hmax, Nat.zero_le _, Nat.zero_le _, ?_⟩
    simp [State.reset]
  case started => simp [StartedInv, State.reset]
  case trace => rfl
  case reporter => simp [ReporterInv, State.reset, reported, expectedOutput]

end Sys2Proof.Proofs
end

