-- ==== Sys2Proof/Proofs/Sequencer.lean ====
section
/-! PROOFS. The step runs what the sequencer's state selects (R31, R94). -/

namespace Sys2Proof.Machine

/-! What is selected, one lemma per control state (R31, R94). -/

theorem selected_idle {s : State} (hs : s.session = .idle) :
    selected s = if s.rateIdx.val < 8 then some .startScan else none := by
  simp only [selected, hs]; rfl

theorem selected_continuing {s : State} (hs : s.session = .continuing) : selected s = some .continueScan := by
  simp [selected, hs]

/-- The step in `Started` as the operation selected and the change of control state after it (R189 to R191). -/
theorem step_started_selected {s : State} (hs : s.session = .started) :
    step s = match selected s with
      | some i => andThen (exec i s) fun t => .next (setSession .continuing t)
      | none => .next (setSession .ended s) := by
  simp only [step, transition, hs, startedTransition, selected]
  cases classOf s.kind <;> rfl

/-- The step in `Ended` as the operation selected and the advance after it (R198). -/
theorem step_ended_selected {s : State} (hs : s.session = .ended) :
    step s = match selected s with
      | some i => andThen (exec i s) fun t => .next (advanceRate t)
      | none => .next (advanceRate s) := by
  simp only [step, transition, hs, endedTransition, selected]
  cases s.portOpen <;> rfl

end Sys2Proof.Machine

namespace Sys2Proof.Proofs

open Machine

/-- Settles O40, clause by clause from what each control state selects. -/
theorem stepRunsSelectedOperation : Obligations.StepRunsSelectedOperation := by
  intro s
  refine ⟨?exchange, ?started, ?ended, ?startedBare, ?endedBare, ?swept⟩
  case exchange =>
    rintro i (hs | hs) hi
    · rw [selected_idle hs] at hi
      split at hi
      case isTrue hr => cases hi; exact step_idle hs hr
      case isFalse => cases hi
    · rw [selected_continuing hs] at hi
      cases hi
      rw [step, transition, hs]
  case started => intro i hs hi; rw [step_started_selected hs, hi]; rfl
  case ended => intro i hs hi; rw [step_ended_selected hs, hi]; rfl
  case startedBare => intro hs hi; rw [step_started_selected hs, hi]; rfl
  case endedBare => intro hs hi; rw [step_ended_selected hs, hi]; rfl
  case swept =>
    intro hs hi
    rw [selected_idle hs] at hi
    split at hi
    case isTrue => cases hi
    case isFalse hr => exact step_swept hs (by omega)

end Sys2Proof.Proofs
end

