-- ==== Sys2Proof/Proofs/DecoderFaults.lean ====
section
/-! PROOFS. Where the decoder's steps stop: outside the preconditions of R145 and R147 (R26, R52, log entry 8). -/

namespace Sys2Proof.Machine

/-- `DEC.CLASSIFY` without a good checksum of the present frame (R26, R145). -/
theorem classifyOp_bad {s : State} (h : s.crcOk = false ∨ s.frm.length < 5) : classifyOp s = .fault .checksumNotGood := by
  rw [classifyOp, if_neg]
  rintro ⟨hc, hn⟩
  have hn : 5 ≤ s.frm.length := hn
  rcases h with h | h
  · simp [h] at hc
  · omega

/-- `DEC.EXTRACT` on a frame without a byte 2 (R52). -/
theorem extractOp_short {s : State} (h : s.frm.length < 3) : extractOp s = .fault .bufferOutOfBounds :=
  readByte_of_le (by omega) _

/-- `DEC.EXTRACT` on a frame that is no device record (R147). -/
theorem extractOp_notDevice {s : State} (h : 3 ≤ s.frm.length) (h2 : byteAt s.frm 2 ≠ subResponse) :
    extractOp s = .fault .notDeviceRecord := by
  rw [extractOp, readByte_of_lt (by omega), if_neg h2]

end Sys2Proof.Machine

namespace Sys2Proof.Proofs

open Machine

/-- Settles O15, by the decoder's rules outside each precondition. -/
theorem decoderStepsStopOutsidePreconditions : Obligations.DecoderStepsStopOutsidePreconditions :=
  fun _ => ⟨classifyOp_bad, extractOp_short, extractOp_notDevice⟩

end Sys2Proof.Proofs
end

