-- ==== Sys2Proof/Proofs/AccessTable.lean ====
section
/-! PROOFS. The access table (R36): what an operation leaves alone, put together along sequences of operations, and one rule per operation. -/

namespace Sys2Proof.Safety

open Machine

/-- A column of the access table is the same in two states. -/
def Reg.Same : Reg → State → State → Prop
  | .crcAcc, s, t => t.crcAcc = s.crcAcc
  | .crcBit, s, t => t.crcBit = s.crcBit
  | .txBuf, s, t => t.txBuf = s.txBuf
  | .rxRaw, s, t => t.rxRaw = s.rxRaw
  | .frm, s, t => t.frm = s.frm
  | .verdict, s, t => t.declared = s.declared ∧ t.computed = s.computed ∧ t.crcOk = s.crcOk
  | .kind, s, t => t.kind = s.kind
  | .device, s, t => t.serial = s.serial ∧ t.busAddr = s.busAddr
  | .session, s, t => t.session = s.session
  | .portOpen, s, t => t.portOpen = s.portOpen

theorem Reg.Same.trans {r : Reg} {s t u : State} (h : r.Same s t) (h' : r.Same t u) : r.Same s u := by
  cases r <;> simp_all [Reg.Same]

/-- `SameOutside`, column by column. -/
theorem sameOutside_iff (regs : List Reg) (s t : State) :
    SameOutside regs s t ↔ (∀ r ∉ regs, r.Same s t) ∧ t.rateIdx = s.rateIdx := by
  constructor
  · rintro ⟨hacc, hbit, htx, hrx, hfrm, hverdict, hkind, hdevice, hsession, hport, hrate⟩
    exact ⟨fun
      | .crcAcc => hacc | .crcBit => hbit | .txBuf => htx | .rxRaw => hrx | .frm => hfrm | .verdict => hverdict
      | .kind => hkind | .device => hdevice | .session => hsession | .portOpen => hport, hrate⟩
  · rintro ⟨h, hrate⟩
    exact ⟨h .crcAcc, h .crcBit, h .txBuf, h .rxRaw, h .frm, h .verdict, h .kind, h .device, h .session, h .portOpen, hrate⟩

/-- What every operation keeps: the registers outside a list, the parameters, the events so far; free values are only drawn, never put
back (R36, R39, R63). -/
structure Touches (regs : List Reg) (s t : State) : Prop where
  outside : SameOutside regs s t
  params : t.params = s.params
  events : ∃ es, t.events = s.events ++ es
  freeCount : s.freeCount ≤ t.freeCount

/-- The same for an operation that leaves the reporter alone too. -/
structure Quiet (regs : List Reg) (s t : State) : Prop extends Touches regs s t where
  reporter : t.reporter = s.reporter

section
variable {regs regs' : List Reg} {s t u : State}

/-- An operation may be allowed more registers than it writes. -/
theorem Touches.mono (h : Touches regs s t) (hsub : regs ⊆ regs') : Touches regs' s t := by
  obtain ⟨hregs, hrate⟩ := (sameOutside_iff ..).mp h.outside
  exact { h with outside := (sameOutside_iff ..).mpr ⟨fun r hr => hregs r (fun hm => hr (hsub hm)), hrate⟩ }

/-- One operation after another. -/
theorem Touches.trans (h : Touches regs s t) (h' : Touches regs t u) : Touches regs s u := by
  obtain ⟨hregs, hrate⟩ := (sameOutside_iff ..).mp h.outside
  obtain ⟨hregs', hrate'⟩ := (sameOutside_iff ..).mp h'.outside
  obtain ⟨es, he⟩ := h.events
  obtain ⟨es', he'⟩ := h'.events
  exact {
    outside := (sameOutside_iff ..).mpr ⟨fun r hr => (hregs r hr).trans (hregs' r hr), hrate'.trans hrate⟩
    params := h'.params.trans h.params
    events := ⟨es ++ es', by rw [he', he, List.append_assoc]⟩
    freeCount := h.freeCount.trans h'.freeCount }

theorem Quiet.mono (h : Quiet regs s t) (hsub : regs ⊆ regs') : Quiet regs' s t :=
  { h.toTouches.mono hsub with reporter := h.reporter }

/-- A second operation whose registers are among the first list. -/
theorem Quiet.seq (h : Quiet regs s t) (h' : Quiet regs' t u) (hsub : regs' ⊆ regs := by simp) : Quiet regs s u :=
  { h.toTouches.trans (h'.toTouches.mono hsub) with reporter := h'.reporter.trans h.reporter }

/-- An operation that emits nothing and draws nothing. -/
theorem Quiet.of_silent (hout : SameOutside regs s t) (hparams : t.params = s.params) (hevents : t.events = s.events)
    (hfree : t.freeCount = s.freeCount) (hrep : t.reporter = s.reporter) : Quiet regs s t :=
  { outside := hout, params := hparams, events := ⟨[], by simp [hevents]⟩, freeCount := hfree.ge, reporter := hrep }

end

/-! ### One rule per operation -/

section
variable {s t : State}

theorem quiet_refl (s : State) : Quiet [] s s := .of_silent (by simp [SameOutside]) rfl rfl rfl rfl

theorem quiet_setResult (r : Result) (s : State) : Quiet [] s (setResult r s) :=
  .of_silent (by simp [SameOutside]) rfl rfl rfl rfl

theorem quiet_raiseKind (k : Kind) (s : State) : Quiet [] s (raiseKind k s) := quiet_setResult _ s

theorem quiet_setSession (x : Session) (s : State) : Quiet [.session] s (setSession x s) :=
  .of_silent (by simp [SameOutside]) rfl rfl rfl rfl

theorem quiet_setPort (v : Bool) (s : State) : Quiet [.portOpen] s (setPort v s) :=
  .of_silent (by simp [SameOutside]) rfl rfl rfl rfl

theorem quiet_emit (e : Event) (s : State) : Quiet [] s (emit e s) :=
  { outside := by simp [SameOutside], params := rfl, events := ⟨[e], rfl⟩, freeCount := le_rfl, reporter := rfl }

theorem quiet_deliver (raw : List Byte) (s : State) : Quiet [.rxRaw] s (deliver raw s) :=
  { outside := by simp [SameOutside], params := rfl, events := ⟨_, rfl⟩, freeCount := le_rfl, reporter := rfl }

/-! The checksum unit and the encoder. -/

theorem quiet_initOp (s : State) : Quiet [.crcAcc] s (initOp s) := .of_silent (by simp [SameOutside]) rfl rfl rfl rfl

theorem quiet_xorOp (b : Byte) (s : State) : Quiet [.crcAcc, .crcBit] s (xorOp b s) :=
  .of_silent (by simp [SameOutside]) rfl rfl rfl rfl

/-- A ninth shift draws a free value for the count (log entry 5). -/
theorem quiet_shiftOp (s : State) : Quiet [.crcAcc, .crcBit] s (shiftOp s) := by
  unfold shiftOp
  split
  · exact .of_silent (by simp [SameOutside]) rfl rfl rfl rfl
  · exact { outside := by simp [SameOutside], params := rfl, events := ⟨[], by simp⟩, freeCount := Nat.le_succ _, reporter := rfl }

theorem quiet_byteOp (b : Byte) (s : State) : Quiet [.crcAcc, .crcBit] s (byteOp b s) :=
  .of_silent (by simp [SameOutside]) rfl rfl rfl rfl

theorem quiet_seqOp (bs : List Byte) (s : State) : Quiet [.crcAcc, .crcBit] s (seqOp bs s) := by
  rw [seqOp_eq]; exact .of_silent (by simp [SameOutside]) rfl rfl rfl rfl

theorem quiet_buildOp (a f sub : Byte) (s : State) : Quiet [.crcAcc, .crcBit, .txBuf] s (buildOp a f sub s) := by
  rw [buildOp_eq]; exact .of_silent (by simp [SameOutside]) rfl rfl rfl rfl

/-! The draws. -/

/-- A draw changes the environment's answers and the count of free values (R35, R36). -/
theorem quiet_of_drawn (h : t = { s with answers := t.answers, freeCount := t.freeCount }) (hfree : s.freeCount ≤ t.freeCount) :
    Quiet [] s t := by
  rw [h]
  exact { outside := by simp [SameOutside], params := rfl, events := ⟨[], by simp⟩, freeCount := hfree, reporter := rfl }

theorem quiet_drawOpen (s : State) : Quiet [] s (drawOpen s).2 :=
  quiet_of_drawn (drawOpen_state s) (by unfold drawOpen; split <;> simp)

theorem quiet_drawWrite (s : State) : Quiet [] s (drawWrite s).2 :=
  quiet_of_drawn (drawWrite_state s) (by unfold drawWrite; split <;> simp)

theorem quiet_drawReceive (s : State) : Quiet [] s (drawReceive s).2 :=
  quiet_of_drawn (drawReceive_state s) (by unfold drawReceive; split <;> simp)

theorem quiet_drawBaud (s : State) : Quiet [] s (drawBaud s).2 := by
  have h := drawBaud_state s
  exact quiet_of_drawn (by rw [h]) (by rw [drawBaud_freeCount]; omega)

/-! The decoder. -/

theorem quiet_denoiseOp (s : State) : Quiet [.frm] s (denoiseOp s) := .of_silent (by simp [SameOutside]) rfl rfl rfl rfl

theorem quiet_validateOp (h : validateOp s = .next t) : Quiet [.crcAcc, .crcBit, .verdict] s t := by
  by_cases hn : s.frm.length < 5
  · rw [validateOp_short hn] at h
    cases h
    exact (quiet_raiseKind _ s).mono (by simp)
  · have hv : Quiet [.crcAcc, .crcBit, .verdict] s (validated s) :=
      .of_silent (by simp [SameOutside, validated]) rfl rfl rfl rfl
    rw [validateOp_long (Nat.not_lt.mp hn)] at h
    cases h
    split
    · exact hv.seq (quiet_setResult _ _)
    · exact hv.seq (quiet_raiseKind _ _)

theorem quiet_classifyOp (h : classifyOp s = .next t) : Quiet [] s t := by
  by_cases hbad : s.crcOk = false ∨ s.frm.length < 5
  · rw [classifyOp_bad hbad] at h; cases h
  · obtain ⟨hc, hn⟩ := not_or.mp hbad
    rw [classifyOp_good (Bool.eq_true_of_not_eq_false hc) (Nat.not_lt.mp hn)] at h
    cases h
    cases headerKind s.frm with
    | none => exact quiet_setResult _ s
    | some k => exact quiet_raiseKind k s

theorem quiet_extractOp (h : extractOp s = .next t) : Quiet [.device] s t := by
  by_cases hn : s.frm.length < 3
  · rw [extractOp_short hn] at h; cases h
  have hn := Nat.not_lt.mp hn
  by_cases h2 : byteAt s.frm 2 = subResponse
  · by_cases hl : s.frm.length = 10
    · have hd : Quiet [.device] s (withDevice s) := .of_silent (by simp [SameOutside, withDevice]) rfl rfl rfl rfl
      rw [extractOp_right hl h2] at h
      cases h
      exact hd.seq (quiet_raiseKind _ _)
    · rw [extractOp_wrong hn h2 hl] at h
      cases h
      exact (quiet_raiseKind _ s).mono (by simp)
  · rw [extractOp_notDevice hn h2] at h; cases h

theorem quiet_parseOp (h : parseOp s = .next t) : Quiet parseWrites s t := by
  obtain ⟨htx, hrx, hsession, hrate, hport, hrep, -, hevents, hparams, hfree⟩ := parseOp_frame h
  exact .of_silent (by simp [SameOutside, parseWrites, htx, hrx, hsession, hrate, hport]) hparams hevents hfree hrep

/-! The transport, the diagnostics and the reporter. -/

/-- An operation that requires a handle and answers a next state is the operation behind the guard (R185, R212). -/
theorem requirePort_eq_next {k : Answer} (h : requirePort s k = .next t) : k = .next t := by
  unfold requirePort at h; split at h
  · exact h
  · cases h

theorem quiet_openOp (h : openOp s = .next t) : Quiet [.portOpen] s t := by
  have hdraws : Quiet [.portOpen] s (drawOpen (drawBaud s).2).2 :=
    ((quiet_drawBaud s).seq (quiet_drawOpen _)).mono (by simp)
  unfold openOp at h
  split at h
  · cases h
  · cases h
    dsimp only
    split
    · exact ((hdraws.seq (quiet_emit _ _)).seq (quiet_setPort _ _)).seq (quiet_setResult _ _)
    · exact (hdraws.seq (quiet_emit _ _)).seq (quiet_setResult _ _)

theorem quiet_writeOp (h : writeOp s = .next t) : Quiet [] s t := by
  have h := requirePort_eq_next h
  cases h
  dsimp only
  split
  · exact ((quiet_drawWrite s).seq (quiet_emit _ _)).seq (quiet_setResult _ _)
  · exact ((quiet_drawWrite s).seq (quiet_emit _ _)).seq (quiet_setResult _ _)

theorem quiet_settleOp (s : State) : Quiet [] s (settleOp s) := quiet_emit _ s

theorem quiet_recvOp (h : recvOp s = .next t) : Quiet [.rxRaw] s t := by
  have h := requirePort_eq_next h
  cases h
  exact ((quiet_drawReceive s).mono (by simp)).seq (quiet_deliver _ _)

theorem quiet_closeOp (h : closeOp s = .next t) : Quiet [.portOpen] s t := by
  have h := requirePort_eq_next h
  cases h
  exact (quiet_setPort false s).seq (quiet_emit _ _)

theorem quiet_diagPayload (k : DiagKind) (s : State) : Quiet [] s (diagPayload k s).2 := by
  cases k with
  | malformedFrame => exact quiet_refl s
  | checksumMismatch => exact quiet_refl s
  | unrecognizedFrame => exact quiet_refl s
  | malformedDeviceRecord => exact quiet_refl s
  | transportOpenError => exact quiet_drawBaud s
  | transportWriteError => exact quiet_drawBaud s

theorem quiet_diagOp {k : DiagKind} (h : diagOp k s = .next t) : Quiet [] s t := by
  cases h
  exact (quiet_diagPayload k s).seq (quiet_emit _ _)

/-- The one operation that changes the reporter writes no register (R36, R222). -/
theorem touches_reportOp (h : reportOp s = .next t) : Touches [] s t := by
  unfold reportOp at h
  split at h
  · split at h
    · cases h
      exact { outside := by simp [SameOutside], params := rfl, events := ⟨_, rfl⟩, freeCount := le_rfl }
    · cases h
    · cases h
  · cases h

/-! The exchange and the transitions. -/

theorem quiet_receiveAndParse {raw : List Byte} (h : receiveAndParse raw s = .next t) : Quiet (.rxRaw :: parseWrites) s t :=
  ((quiet_deliver raw s).mono (by simp)).seq (quiet_parseOp (requirePort_eq_next h))

theorem quiet_readBack (h : readBack s = .next t) : Quiet (.rxRaw :: parseWrites) s t :=
  (((quiet_settleOp s).seq (quiet_drawReceive _)).mono (by simp)).seq (quiet_receiveAndParse h)

theorem quiet_exchangeOp {sub : Byte} (h : exchangeOp sub s = .next t) : Quiet exchangeWrites s t := by
  obtain ⟨w, hw, h⟩ := andThen_eq_next.mp (requirePort_eq_next h)
  have hsent : Quiet exchangeWrites s w :=
    ((quiet_buildOp _ _ sub s).seq (quiet_writeOp hw)).mono (by simp [exchangeWrites, parseWrites])
  split at h
  · cases h; exact hsent.seq (quiet_setResult _ _)
  · exact hsent.seq (quiet_readBack h) (by simp [exchangeWrites])

theorem quiet_writeFailed (h : writeFailed s = .next t) : Quiet [.session] s t := by
  obtain ⟨d, hd, h⟩ := andThen_eq_next.mp h
  cases h
  exact ((quiet_diagOp hd).mono (by simp)).seq (quiet_setSession _ _)

theorem quiet_startTransition (h : startTransition s = .next t) : Quiet (writes .startScan) s t := by
  unfold startTransition at h
  split at h
  case isFalse => cases h
  obtain ⟨o, ho, h⟩ := andThen_eq_next.mp h
  have hopen : Quiet (writes .startScan) s o := (quiet_openOp ho).mono (by simp [writes])
  split at h
  · obtain ⟨d, hd, h⟩ := andThen_eq_next.mp h
    cases h
    exact (hopen.seq (quiet_diagOp hd)).seq (quiet_setSession _ _) (by simp [writes])
  · obtain ⟨x, hx, h⟩ := andThen_eq_next.mp h
    have hexchange : Quiet (writes .startScan) s x := hopen.seq (quiet_exchangeOp hx) (by simp [writes])
    split at h
    · exact hexchange.seq (quiet_writeFailed h) (by simp [writes])
    · cases h; exact hexchange.seq (quiet_setSession _ _) (by simp [writes])

theorem touches_actOnKind (h : actOnKind s = .next t) : Touches [.session] s t := by
  unfold actOnKind at h
  split at h
  · cases h; exact (quiet_setSession _ s).toTouches
  · obtain ⟨r, hr, h⟩ := andThen_eq_next.mp h
    cases h
    exact ((touches_reportOp hr).mono (by simp)).trans (quiet_setSession _ _).toTouches
  · obtain ⟨d, hd, h⟩ := andThen_eq_next.mp h
    cases h
    exact (((quiet_diagOp hd).mono (by simp)).seq (quiet_setSession _ _)).toTouches

theorem touches_continueTransition (h : continueTransition s = .next t) : Touches (writes .continueScan) s t := by
  unfold continueTransition at h
  split at h
  case isFalse => cases h
  obtain ⟨x, hx, h⟩ := andThen_eq_next.mp h
  have hexchange : Quiet (writes .continueScan) s x := (quiet_exchangeOp hx).mono (by simp [writes])
  split at h
  · exact (hexchange.seq (quiet_writeFailed h) (by simp [writes])).toTouches
  · exact hexchange.toTouches.trans ((touches_actOnKind h).mono (by simp [writes]))

end

end Sys2Proof.Safety

namespace Sys2Proof.Proofs

open Machine Safety

/-- What `Quiet` says is what the statement asks of an instruction that reports nothing. -/
theorem frame_of_quiet {i : Instr} {s t : State} (h : Quiet (writes i) s t) :
    SameOutside (writes i) s t ∧ t.params = s.params ∧ (∃ es, t.events = s.events ++ es) ∧
      (i ≠ .reportDevice → i ≠ .continueScan → t.reporter = s.reporter) ∧ s.freeCount ≤ t.freeCount :=
  ⟨h.outside, h.params, h.events, fun _ _ => h.reporter, h.freeCount⟩

/-- Settles O45, one rule per instruction: the two that can report are held to everything but the reporter. -/
theorem instructionsWriteOnlyTheirRegisters : Obligations.InstructionsWriteOnlyTheirRegisters := by
  intro i s t h
  cases i with
  | startScan => exact frame_of_quiet (quiet_startTransition h)
  | continueScan =>
    have hc := touches_continueTransition h
    exact ⟨hc.outside, hc.params, hc.events, fun _ hne => absurd rfl hne, hc.freeCount⟩
  | endScan => cases h; exact frame_of_quiet (quiet_buildOp _ _ _ s)
  | deviceFound serial busAddr => exact frame_of_quiet (quiet_receiveAndParse h)
  | scanEnded payload => exact frame_of_quiet (quiet_receiveAndParse h)
  | idleFill => exact frame_of_quiet (quiet_receiveAndParse h)
  | crcInit => cases h; exact frame_of_quiet (quiet_initOp s)
  | crcXor b => cases h; exact frame_of_quiet (quiet_xorOp b s)
  | crcShift => cases h; exact frame_of_quiet (quiet_shiftOp s)
  | crcByte b => cases h; exact frame_of_quiet (quiet_byteOp b s)
  | crcSeq bytes => cases h; exact frame_of_quiet (quiet_seqOp bytes s)
  | encBuild a f sub => cases h; exact frame_of_quiet (quiet_buildOp a f sub s)
  | decDenoise => cases h; exact frame_of_quiet (quiet_denoiseOp s)
  | decValidate => exact frame_of_quiet (quiet_validateOp h)
  | decClassify => exact frame_of_quiet (quiet_classifyOp h)
  | decExtract => exact frame_of_quiet (quiet_extractOp h)
  | decParse => exact frame_of_quiet (quiet_parseOp h)
  | scanExchange sub => exact frame_of_quiet (quiet_exchangeOp h)
  | xportOpen => exact frame_of_quiet (quiet_openOp h)
  | xportWrite => exact frame_of_quiet (quiet_writeOp h)
  | xportSettle => cases h; exact frame_of_quiet (quiet_settleOp s)
  | xportRecv => exact frame_of_quiet (quiet_recvOp h)
  | xportClose => exact frame_of_quiet (quiet_closeOp h)
  | reportDevice =>
    have hr := touches_reportOp h
    exact ⟨hr.outside, hr.params, hr.events, fun hne => absurd rfl hne, hr.freeCount⟩
  | diagEmit k => exact frame_of_quiet (quiet_diagOp h)

end Sys2Proof.Proofs
end

