-- ==== Sys2Proof/Proofs/HandleBalance.lean ====
section
/-! PROOFS. The handles a trace opens and the handles it closes differ by the one handle its last phase may hold (R67, R215). -/

namespace Sys2Proof.Safety

open Machine

/-- How many handles are held in a phase: none before an open is answered `Opened`, one until the close (R67). -/
def heldHandles : Phase → Nat
  | .between _ | .openFailed _ => 0
  | .ready _ _ | .sent _ | .settled _ | .answered _ _ | .writeFailed _ | .closing _ => 1

/-- An event keeps the balance of opens and closes: an open takes a handle, the close gives it back, and no other event changes what is held. -/
theorem PhaseStep.balance {p : Params} {ph ph' q : Phase} {e : Event} {es : List Event} (h : PhaseStep p ph e ph')
    (hes : heldHandles ph' + openedCount es = heldHandles q + closeCount es) :
    heldHandles ph + openedCount (e :: es) = heldHandles q + closeCount (e :: es) := by
  cases h with
  | opened => simp only [heldHandles, openedCount, closeCount] at hes ⊢; omega
  | closed => simp only [heldHandles, openedCount, closeCount] at hes ⊢; omega
  | _ => exact hes

/-- Handles held before a trace and opened in it are those closed in it and held after it. -/
theorem runPhases_balance {p : Params} {ph q : Phase} {es : List Event} (h : runPhases p ph es = some q) :
    heldHandles ph + openedCount es = heldHandles q + closeCount es := by
  induction es generalizing ph with
  | nil => cases h; rfl
  | cons e es ih =>
    obtain ⟨ph', hstep, hrest⟩ := runPhases_cons h
    exact hstep.balance (ih hrest)

/-- In `Idle` no handle is held. -/
theorem heldHandles_phaseOf_idle {s : State} (hs : s.session = .idle) : heldHandles (phaseOf s) = 0 := by
  rw [phaseOf, hs, heldHandles]

end Sys2Proof.Safety

namespace Sys2Proof.Proofs

open Machine Safety

/-- Settles O52: the balance over the whole trace, with no handle held at either end. -/
theorem everyOpenedHandleIsClosed : Obligations.EveryOpenedHandleIsClosed := by
  intro s htrace hidle
  have hbalance := runPhases_balance htrace
  have hstart : heldHandles (.between 0) = 0 := rfl
  have hend : heldHandles (phaseOf s) = 0 := heldHandles_phaseOf_idle hidle
  omega

/-- After one session, cut short at its first write, and one failed open. -/
def afterOneSession : State :=
  { State.reset with
    params := { portId := "p", readTimeout := 1, settleInterval := 2, rxMax := 12 }
    rateIdx := 2
    events := [.opening "p" 115200 1 .opened, .tx (commandFrame 0x01#8) .writeError, .diag .transportWriteError (.rate 115200), .close,
      .opening "p" 57600 1 .openError, .diag .transportOpenError (.rate 57600)] }

theorem afterOneSession_traceInv : TraceInv afterOneSession := by decide +kernel

/-- `everyOpenedHandleIsClosed` of a trace that does open a handle: one open, so one close. -/
theorem closeCount_afterOneSession : closeCount afterOneSession.events = 1 :=
  everyOpenedHandleIsClosed afterOneSession afterOneSession_traceInv rfl

end Sys2Proof.Proofs
end

