-- ==== Sys2Proof/Proofs/Frames.lean ====
section
/-! PROOFS. The frame formats: reading and writing a row are inverse to each other, in either direction (R80 to R86, R91). -/

namespace Sys2Proof

open Machine

/-! ### Outbound: the three command frames -/

/-- What is looked up stands in the table. -/
theorem mem_of_lookupRow {bs : List Byte} {i : Instr} {rows : List (List Byte × Instr)} (h : lookupRow bs rows = some i) :
    (bs, i) ∈ rows := by
  induction rows with
  | nil => cases h
  | cons row rows ih =>
    obtain ⟨frame, j⟩ := row
    unfold lookupRow at h
    split at h
    case isTrue he => cases he; cases h; exact List.mem_cons_self
    case isFalse => exact List.mem_cons_of_mem _ (ih h)

/-- Each frame of the table is the encoding of its row (R82). -/
theorem encode_of_mem_commandRows :
    ∀ row ∈ commandRows, encode row.2 = some row.1 ∧ row.2.direction = some .outbound ∧ row.2.wellFormed = true := by
  decide +kernel

/-- Each frame of the table is looked up as its row: no two rows share a frame. -/
theorem lookupRow_of_mem_commandRows : ∀ row ∈ commandRows, lookupRow row.1 commandRows = some row.2 := by
  decide

/-- The table holds every command (R82, R88). -/
theorem exists_mem_commandRows {i : Instr} (h : i.direction = some .outbound) : ∃ frame, (frame, i) ∈ commandRows := by
  cases i with
  | startScan => exact ⟨_, .head _⟩
  | continueScan => exact ⟨_, .tail _ (.head _)⟩
  | endScan => exact ⟨_, .tail _ (.tail _ (.head _))⟩
  | _ => cases h

/-- Outbound, what decodes is exactly what encodes (R82, R93). -/
theorem decodeOutbound_eq_ok_iff {bs : List Byte} {i : Instr} :
    decodeOutbound bs = .ok i ↔ encode i = some bs ∧ i.direction = some .outbound ∧ i.wellFormed = true := by
  constructor
  · intro h
    unfold decodeOutbound at h
    split at h
    case h_1 j hj => cases h; exact encode_of_mem_commandRows _ (mem_of_lookupRow hj)
    case h_2 => cases h
  · rintro ⟨he, hd, -⟩
    obtain ⟨frame, hm⟩ := exists_mem_commandRows hd
    obtain rfl : frame = bs := Option.some.inj ((encode_of_mem_commandRows _ hm).1.symm.trans he)
    simp only [decodeOutbound, lookupRow_of_mem_commandRows _ hm]

/-! ### Inbound: the fill byte and the sealed frames -/

/-- A body is that of a scan-ended frame or that of a device-found frame (R84, R85, R88, R92). -/
theorem decodeBody_eq_ok_iff {body : List Byte} {i : Instr} :
    decodeBody body = .ok i ↔
      (∃ p, body = endedBody p ∧ i = .scanEnded p) ∨ (∃ n a, body = deviceBody n a ∧ i = .deviceFound n a) := by
  constructor
  · intro h
    unfold decodeBody at h
    split at h
    case h_1 a f t rest =>
      split_ifs at h with hhead hended hdevice
      · obtain ⟨rfl, rfl⟩ : a = addrBroadcast ∧ f = funcExt := by simpa using hhead
        cases h; subst hended
        exact .inl ⟨rest, rfl, rfl⟩
      · obtain ⟨rfl, rfl⟩ : a = addrBroadcast ∧ f = funcExt := by simpa using hhead
        split at h
        case h_1 b3 b2 b1 b0 d =>
          cases h; subst hdevice
          exact .inr ⟨_, d, by simp [deviceBody, header], rfl⟩
        case h_2 => cases h
    case h_2 => cases h
  · rintro (⟨p, rfl, rfl⟩ | ⟨n, a, rfl, rfl⟩)
    · rfl
    · simp [decodeBody, deviceBody, header, serialBytes]

/-- A sealed frame taken apart: its body and its two checksum bytes (R80). -/
theorem take_sealFrame (body : List Byte) : (sealFrame body).take ((sealFrame body).length - crcLen) = body := by
  simp [sealFrame, crcBytes, crcLen]

theorem drop_sealFrame (body : List Byte) :
    (sealFrame body).drop ((sealFrame body).length - crcLen) = crcBytes (checksum body) := by
  simp [sealFrame, crcBytes, crcLen]

/-- An inbound frame without fill bytes is read by its body (R83, R91, R144). -/
theorem decodeInbound_sealFrame {body : List Byte} (hf : noFill (sealFrame body) = true) (hl : 3 ≤ body.length) :
    decodeInbound (sealFrame body) = decodeBody body := by
  have hlen := sealFrame_length body
  have hne : sealFrame body ≠ [] := fun h => by simp [h] at hlen
  have hfill : sealFrame body ≠ [idleFillByte] := fun h => by rw [h] at hlen; simp at hlen
  rw [decodeInbound, if_neg hne, if_neg hfill, if_neg (by simp [hf]), if_neg (by rw [hlen, minFrameLen]; omega),
    take_sealFrame, drop_sealFrame, if_pos rfl]

/-- What decodes inbound is the lone fill byte or a sealed frame without fill bytes (R83, R91, R144). -/
theorem decodeInbound_cases {bs : List Byte} {i : Instr} (h : decodeInbound bs = .ok i) :
    (bs = [idleFillByte] ∧ i = .idleFill) ∨
      ∃ body, bs = sealFrame body ∧ noFill bs = true ∧ decodeBody body = .ok i := by
  simp only [decodeInbound] at h
  split_ifs at h with hne hfill hf hl hc
  · cases h; exact .inl ⟨hfill, rfl⟩
  · refine .inr ⟨bs.take (bs.length - crcLen), ?_, by simpa using hf, h⟩
    rw [sealFrame, ← hc, List.take_append_drop]

/-- Inbound, what decodes is exactly what encodes and is well formed (R83 to R86, R91). -/
theorem decodeInbound_eq_ok_iff {bs : List Byte} {i : Instr} :
    decodeInbound bs = .ok i ↔ encode i = some bs ∧ i.direction = some .inbound ∧ i.wellFormed = true := by
  constructor
  · intro h
    obtain ⟨rfl, rfl⟩ | ⟨body, rfl, hf, hb⟩ := decodeInbound_cases h
    · exact ⟨rfl, rfl, rfl⟩
    · obtain ⟨p, rfl, rfl⟩ | ⟨n, a, rfl, rfl⟩ := decodeBody_eq_ok_iff.mp hb
      · exact ⟨rfl, rfl, hf⟩
      · exact ⟨rfl, rfl, hf⟩
  · rintro ⟨he, hd, hw⟩
    cases i with
    | deviceFound n a =>
      cases he
      exact (decodeInbound_sealFrame hw (by simp)).trans (decodeBody_eq_ok_iff.mpr (.inr ⟨n, a, rfl, rfl⟩))
    | scanEnded p =>
      cases he
      exact (decodeInbound_sealFrame hw (by simp [endedBody, header])).trans (decodeBody_eq_ok_iff.mpr (.inl ⟨p, rfl, rfl⟩))
    | idleFill => cases he; rfl
    | _ => cases hd

/-- Reading and writing are inverse: in either direction, what decodes is exactly what encodes, travels that way and is well formed. -/
theorem decode_eq_ok_iff {d : Direction} {bs : List Byte} {i : Instr} :
    decode d bs = .ok i ↔ encode i = some bs ∧ i.direction = some d ∧ i.wellFormed = true := by
  cases d with
  | outbound => exact decodeOutbound_eq_ok_iff
  | inbound => exact decodeInbound_eq_ok_iff

end Sys2Proof

namespace Sys2Proof.Proofs

/-- Settles O18, from right to left in `decode_eq_ok_iff`. -/
theorem decodeInvertsEncode : Obligations.DecodeInvertsEncode :=
  fun _ _ _ hwell hdir henc => decode_eq_ok_iff.mpr ⟨henc, hdir, hwell⟩

/-- Settles O19, from left to right in `decode_eq_ok_iff`. -/
theorem encodeInvertsDecode : Obligations.EncodeInvertsDecode :=
  fun _ _ _ h => decode_eq_ok_iff.mp h

/-- Settles O17: each frame is its row's encoding, by computation. -/
theorem writtenFramesDecode : Obligations.WrittenFramesDecode :=
  by unfold Obligations.WrittenFramesDecode; decide +kernel

end Sys2Proof.Proofs
end

