-- ==== Sys2Proof/Proofs/ParserFormats.lean ====
section
/-! PROOFS. The parser reads the frame formats: the kind of a parse is what the inbound formats make of the denoised bytes
(R83, R84, R85, R149). -/

namespace Sys2Proof.Machine

open Safety

/-- The kind a parse gives bytes that are no row, by the test they fail (R143 to R147). `notACommand` and `fillInside` are not met
on denoised bytes. -/
def kindOfError : DecodeError → Kind
  | .notACommand => .malformedFrame
  | .noBytes => .malformedFrame
  | .fillInside => .malformedFrame
  | .tooShort => .malformedFrame
  | .badChecksum => .checksumMismatch
  | .wrongHeader => .unrecognizedFrame
  | .unknownType => .unrecognizedFrame
  | .wrongDeviceLength => .malformedDeviceRecord

/-- The kind a parse gives a row received: a device, the end of the scan, or a fill byte, which leaves no frame (R143, R146, R147). -/
def kindOfRow : Instr → Kind
  | .deviceFound _ _ => .deviceFound
  | .scanEnded _ => .scanEnded
  | _ => .malformedFrame

/-- The kind a parse gives bytes that the inbound formats read so; `parseTree_eq_kindOfDecode` ties it to the decision tree. -/
def kindOfDecode : Except DecodeError Instr → Kind
  | .ok i => kindOfRow i
  | .error e => kindOfError e

theorem kindOfDecode_eq_scanEnded_iff {r : Except DecodeError Instr} :
    kindOfDecode r = .scanEnded ↔ ∃ p, r = .ok (.scanEnded p) := by
  cases r with
  | error e => cases e <;> simp [kindOfDecode, kindOfError]
  | ok i => cases i <;> simp [kindOfDecode, kindOfRow]

theorem kindOfDecode_eq_deviceFound_iff {r : Except DecodeError Instr} :
    kindOfDecode r = .deviceFound ↔ ∃ n a, r = .ok (.deviceFound n a) := by
  cases r with
  | error e => cases e <;> simp [kindOfDecode, kindOfError]
  | ok i => cases i <;> simp [kindOfDecode, kindOfRow]

/-- A value is put together from two bytes exactly when they are its checksum bytes (R53, R86). -/
theorem le16_eq_iff {lo hi : Byte} {c : Word16} : le16 lo hi = c ↔ [lo, hi] = crcBytes c := by
  constructor
  · rintro rfl; simp [crcBytes]
  · intro h
    obtain ⟨rfl, rfl⟩ : lo = crcLo c ∧ hi = crcHi c := by simpa [crcBytes] using h
    exact le16_crcBytes c

/-- The last two bytes of a sequence. -/
theorem drop_length_sub_two {f : List Byte} (hn : 2 ≤ f.length) :
    f.drop (f.length - 2) = [byteAt f (f.length - 2), byteAt f (f.length - 1)] := by
  rw [List.drop_eq_getElem_cons (by omega), List.drop_eq_getElem_cons (by omega), List.drop_eq_nil_of_le (by omega)]
  simp [byteAt, show f.length - 2 + 1 = f.length - 1 by omega, show f.length - 2 < f.length by omega,
    show f.length - 1 < f.length by omega]

/-- The validator's test is the format's comparison of the checksum bytes (R86, R144). -/
theorem goodChecksum_iff_drop {f : List Byte} (hn : 2 ≤ f.length) :
    goodChecksum f = true ↔ f.drop (f.length - crcLen) = crcBytes (checksum (f.take (f.length - crcLen))) := by
  rw [goodChecksum, crcOkOf, beq_iff_eq, le16_eq_iff, ← drop_length_sub_two hn]; rfl

/-- The decoder's header, type and length tests are the format's tests of the body (R145 to R147). -/
theorem kindOfDecode_decodeBody {body : List Byte} (hl : 3 ≤ body.length) :
    kindOfDecode (decodeBody body) =
      (headerKind body).getD (if body.length = 8 then .deviceFound else .malformedDeviceRecord) := by
  match body, hl with
  | a :: f :: t :: rest, _ =>
    have hhead : headerKind (a :: f :: t :: rest) =
        if a ≠ addrBroadcast ∨ f ≠ funcExt then some .unrecognizedFrame
        else if t = subEnd then some .scanEnded
        else if t = subResponse then none
        else some .unrecognizedFrame := rfl
    simp only [hhead, decodeBody]
    by_cases hbad : a ≠ addrBroadcast ∨ f ≠ funcExt
    · simp only [if_pos hbad]; rfl
    by_cases hended : t = subEnd
    · simp only [if_neg hbad, if_pos hended]; rfl
    by_cases hdevice : t = subResponse
    · simp only [if_neg hbad, if_neg hended, if_pos hdevice, Option.getD_none]
      split
      case h_1 => rfl
      case h_2 hrest =>
        have hne : rest.length ≠ 5 := fun h => by
          match rest, h with
          | [b3, b2, b1, b0, d], _ => exact hrest b3 b2 b1 b0 d rfl
        rw [if_neg (by simpa using hne)]; rfl
    · simp only [if_neg hbad, if_neg hended, if_neg hdevice]; rfl

/-- The header and the type byte are in what the checksum covers. -/
theorem headerKind_take {f : List Byte} {n : Nat} (hn : 3 ≤ n) : headerKind (f.take n) = headerKind f := by
  simp [headerKind, byteAt, show 0 < n by omega, show 1 < n by omega, show 2 < n by omega]

/-- The decision tree is the inbound formats' reading of the denoised bytes, silence apart (R83, R142, R149). -/
theorem parseTree_eq_kindOfDecode {raw : List Byte} (h : raw ≠ []) :
    parseTree raw = kindOfDecode (decodeInbound (denoise raw)) := by
  have hnofill := noFill_denoise raw
  rw [parseTree_eq, if_neg h]
  generalize denoise raw = f at *
  have hfill : f ≠ [idleFillByte] := by rintro rfl; simp [noFill] at hnofill
  by_cases hn : f.length < 5
  · rw [if_pos hn]
    by_cases hne : f = []
    · simp [decodeInbound, hne, kindOfDecode, kindOfError]
    · simp [decodeInbound, hne, hfill, hnofill, minFrameLen, hn, kindOfDecode, kindOfError]
  have hne : f ≠ [] := List.ne_nil_of_length_pos (by omega)
  have hread : decodeInbound f =
      if goodChecksum f = true then decodeBody (f.take (f.length - crcLen)) else .error .badChecksum := by
    simp only [goodChecksum_iff_drop (f := f) (by omega)]
    simp [decodeInbound, hne, hfill, hnofill, minFrameLen, hn]
  rw [if_neg hn, hread]
  cases goodChecksum f with
  | false => rfl
  | true =>
    have hlen : (f.take (f.length - crcLen)).length = f.length - 2 := by simp [crcLen]
    rw [if_pos rfl, if_pos rfl, kindOfDecode_decodeBody (by omega), headerKind_take (by rw [crcLen]; omega), hlen]
    simp only [show f.length - 2 = 8 ↔ f.length = 10 by omega]

/-- A receive parses to a device exactly when the denoised bytes are a device's frame (R84, R149). -/
theorem parseTree_eq_deviceFound_iff {raw : List Byte} :
    parseTree raw = .deviceFound ↔ ∃ n a, decodeInbound (denoise raw) = .ok (.deviceFound n a) := by
  by_cases h : raw = []
  · subst h; simp [parseTree, decodeInbound, denoise]
  · rw [parseTree_eq_kindOfDecode h, kindOfDecode_eq_deviceFound_iff]

/-- A receive ends the scan exactly when the denoised bytes are a scan-ended frame (R85, R149). -/
theorem parseTree_eq_scanEnded_iff {raw : List Byte} :
    parseTree raw = .scanEnded ↔ ∃ p, decodeInbound (denoise raw) = .ok (.scanEnded p) := by
  by_cases h : raw = []
  · subst h; simp [parseTree, decodeInbound, denoise]
  · rw [parseTree_eq_kindOfDecode h, kindOfDecode_eq_scanEnded_iff]

/-- The fields of the decision tree are those of the device's frame (R84, R87, R147). -/
theorem treeFields_of_decode {raw : List Byte} {n : Word32} {a : Byte}
    (h : decodeInbound (denoise raw) = .ok (.deviceFound n a)) : treeSerial raw = n ∧ treeBusAddr raw = a := by
  obtain ⟨hbytes, -, -⟩ := decodeInbound_eq_ok_iff.mp h
  rw [treeSerial_eq, treeBusAddr_eq, ← Option.some.inj hbytes]
  exact ⟨be32_serialBytes n, rfl⟩

end Sys2Proof.Machine

namespace Sys2Proof.Proofs

open Machine Safety

/-- Settles O20: a parse ends with the decision tree's kind and fields, which are the formats' reading of the denoised bytes. -/
theorem parserAgreesWithFormats : Obligations.ParserAgreesWithFormats := by
  intro s
  obtain ⟨t, ht, -⟩ := parseOp_next s
  have hkind := parseOp_kind ht
  obtain ⟨hserial, hbusAddr⟩ := parseOp_device_fields ht
  have hdenoise : s.rxRaw.filter (fun b => b != 0xFF#8) = denoise s.rxRaw := (denoise_eq_filter _).symm
  simp only [hdenoise]
  refine ⟨t, ht, fun n a => ?_, hkind ▸ parseTree_eq_scanEnded_iff⟩
  constructor
  · rintro ⟨hk, hn, ha⟩
    obtain ⟨n', a', hd⟩ := parseTree_eq_deviceFound_iff.mp (hkind.symm.trans hk)
    obtain ⟨hn', ha'⟩ := treeFields_of_decode hd
    rw [if_pos hk, hn'] at hserial
    rw [if_pos hk, ha'] at hbusAddr
    cases hserial.symm.trans hn
    cases hbusAddr.symm.trans ha
    exact hd
  · intro hd
    have hk : t.kind = .deviceFound := hkind.trans (parseTree_eq_deviceFound_iff.mpr ⟨n, a, hd⟩)
    obtain ⟨hn, ha⟩ := treeFields_of_decode hd
    exact ⟨hk, by rw [hserial, if_pos hk, hn], by rw [hbusAddr, if_pos hk, ha]⟩

end Sys2Proof.Proofs
end

