-- ==== Sys2Proof/Proofs/Inbound.lean ====
section
/-! PROOFS. The inbound rows, each one receive and its parse, and the exchange that meets them (R83, R90, R185, R214). -/

namespace Sys2Proof.Machine

open Safety

/-! ### One receive and its parse -/

/-- The bound on a receive keeps the first `RX_MAX` bytes (R214). -/
theorem takeAtMost_eq_take {α : Type} (l : List α) (n : Nat) : takeAtMost l n = l.take n := by
  induction l generalizing n with
  | nil => simp [takeAtMost]
  | cons a l ih => cases n with
    | zero => rfl
    | succ n => simp [takeAtMost, ih]

/-- A parse that ends the scan or finds a device has met a good checksum (R144, R149). -/
theorem parseOp_crcOk {s t : State} (h : parseOp s = .next t) (hk : t.kind = .scanEnded ∨ t.kind = .deviceFound) :
    t.crcOk = true := by
  cases parseOp_cases h with
  | empty h ht => simp [ht] at hk
  | short h hn ht => simp [ht] at hk
  | mismatch h hn hc ht => simp [ht] at hk
  | header k h hn hc hh ht => rw [ht]; simpa [parsed] using hc
  | record h hn hc hh hl ht => simp [ht] at hk
  | device h hc hh hl ht => rw [ht]; simpa [parsed, withDevice] using hc

/-- An inbound row is executed by receiving and parsing its bytes (R83, R90; log entry 6). -/
theorem exec_inbound {i : Instr} {bs : List Byte} (hd : i.direction = some .inbound) (he : encode i = some bs) (s : State) :
    exec i s = receiveAndParse bs s := by
  cases i with
  | deviceFound n a => cases he; rfl
  | scanEnded p => cases he; rfl
  | idleFill => cases he; rfl
  | _ => cases hd

/-- The registers an inbound row may write are those of a receive and a parse (R36). -/
theorem writes_inbound {i : Instr} (hd : i.direction = some .inbound) : writes i = .rxRaw :: parseWrites := by
  cases i with
  | deviceFound n a => rfl
  | scanEnded p => rfl
  | idleFill => rfl
  | _ => cases hd

/-- A scan-ended frame is its payload and 5 more bytes (R85). -/
theorem endedFrame_length (p : List Byte) : (endedFrame p).length = p.length + 5 := by
  simp [endedFrame, endedBody, header]

/-- The state after a frame that arrived whole and was parsed with kind `k`: the device fields, the frame in `rx_raw` and `frm`, one
receive event, and nothing outside the receiver, the decoder and the checksum unit changed (R147, R152, R214). -/
structure TookFrame (bs : List Byte) (k : Kind) (s t : State) : Prop where
  kind : t.kind = k
  serial : t.serial = if k = .deviceFound then some (treeSerial bs) else none
  busAddr : t.busAddr = if k = .deviceFound then some (treeBusAddr bs) else none
  crcOk : t.crcOk = true
  rxRaw : t.rxRaw = bs
  frm : t.frm = t.rxRaw
  events : t.events = s.events ++ [.rx t.rxRaw]
  outside : SameOutside (.rxRaw :: parseWrites) s t

/-- A frame without fill bytes that fits a receive arrives whole (R91, R214). -/
theorem receiveAndParse_whole {bs : List Byte} {k : Kind} {s : State} (hk : parseTree bs = k)
    (hgood : k = .scanEnded ∨ k = .deviceFound) (hf : noFill bs = true) (hp : s.portOpen = true) (hl : bs.length ≤ s.params.rxMax) :
    ∃ t, receiveAndParse bs s = .next t ∧ TookFrame bs k s t := by
  have hraw : (deliver bs s).rxRaw = bs := takeAtMost_of_le hl
  have hne : bs ≠ [] := by rintro rfl; subst hk; simp [parseTree] at hgood
  obtain ⟨t, ht, -, hfrm, -⟩ := parseOp_next (deliver bs s)
  have hanswer : receiveAndParse bs s = .next t := (receiveAndParse_open hp bs).trans ht
  have hkind : t.kind = k := (parseOp_kind ht).trans (by rw [hraw, hk])
  obtain ⟨hserial, hbusAddr⟩ := parseOp_device_fields ht
  obtain ⟨-, hrx, -, -, -, -, -, hevents, -⟩ := parseOp_frame ht
  exact ⟨t, hanswer, {
    kind := hkind
    serial := by rw [hserial, hkind, hraw]
    busAddr := by rw [hbusAddr, hkind, hraw]
    crcOk := parseOp_crcOk ht (hkind ▸ hgood)
    rxRaw := hrx.trans hraw
    frm := by rw [hfrm, hrx, hraw, if_neg hne, denoise_of_noFill hf]
    events := by rw [hevents, deliver_events, hrx, hraw, takeAtMost_of_le hl]
    outside := (quiet_receiveAndParse hanswer).outside }⟩

/-! ### The exchange -/

/-- A pending answer to a write is the one taken (log entry 3). -/
theorem drawWrite_pending {s : State} {w : WriteResult} {ws : List WriteResult} (h : s.answers.writes = w :: ws) :
    drawWrite s = (w, { s with answers := { s.answers with writes := ws } }) := by
  simp [drawWrite, h]

/-- A pending receive is the one taken (log entry 3). -/
theorem drawReceive_pending {s : State} {raw : List Byte} {rest : List (List Byte)} (h : s.answers.receives = raw :: rest) :
    drawReceive s = (raw, { s with answers := { s.answers with receives := rest } }) := by
  simp [drawReceive, h]

/-- `END_SCAN` as built (R82, R131). -/
theorem checksum_endScan : checksum [addrBroadcast, funcExt, subEnd] = 0x93D3#16 := by decide +kernel

end Sys2Proof.Machine

namespace Sys2Proof.Proofs

open Machine Safety

/-- Settles O21: the row is its bytes received and parsed. -/
theorem inboundRowsAreReceivedAndParsed : Obligations.InboundRowsAreReceivedAndParsed := by
  intro i bs s hd he hp
  have hexec : exec i s = parseOp (deliver bs s) := (exec_inbound hd he s).trans (receiveAndParse_open hp bs)
  have hraw : (deliver bs s).rxRaw = bs.take s.params.rxMax := takeAtMost_eq_take _ _
  obtain ⟨t, ht, -⟩ := parseOp_next (deliver bs s)
  refine ⟨?_, t, hexec.trans ht, hraw ▸ parseOp_kind ht, ?_⟩
  · rw [hexec, deliver, takeAtMost_eq_take]; rfl
  · rw [writes_inbound hd]
    exact (quiet_receiveAndParse ((receiveAndParse_open hp bs).trans ht)).outside

/-- Settles O22: the frame arrives whole, and the decision tree reads the row's fields back from it. -/
theorem deviceFrameIsFound : Obligations.DeviceFrameIsFound := by
  intro n a s hp hmax hwell
  have hf : noFill (deviceFrame n a) = true := hwell
  have hd : decodeInbound (denoise (deviceFrame n a)) = .ok (.deviceFound n a) := by
    rw [denoise_of_noFill hf]; exact decodeInbound_eq_ok_iff.mpr ⟨rfl, rfl, hwell⟩
  obtain ⟨hn, ha⟩ := treeFields_of_decode hd
  obtain ⟨t, ht, h⟩ := receiveAndParse_whole (parseTree_eq_deviceFound_iff.mpr ⟨n, a, hd⟩) (.inr rfl) hf hp hmax
  exact ⟨t, ht, h.kind, h.serial.trans (congrArg some hn), h.busAddr.trans (congrArg some ha), h.crcOk,
    congrArg some h.rxRaw.symm, h.frm, h.events, h.outside⟩

/-- Settles O24: the frame arrives whole, and its payload is no part of any test. -/
theorem endedFrameEndsScan : Obligations.EndedFrameEndsScan := by
  intro p s hp hmax hwell
  have hf : noFill (endedFrame p) = true := hwell
  have hd : decodeInbound (denoise (endedFrame p)) = .ok (.scanEnded p) := by
    rw [denoise_of_noFill hf]; exact decodeInbound_eq_ok_iff.mpr ⟨rfl, rfl, hwell⟩
  obtain ⟨t, ht, h⟩ := receiveAndParse_whole (parseTree_eq_scanEnded_iff.mpr ⟨p, hd⟩) (.inl rfl) hf hp (by rwa [endedFrame_length])
  exact ⟨t, ht, h.kind, h.serial, h.busAddr, h.crcOk, congrArg some h.rxRaw.symm, h.frm, h.events, h.outside⟩

/-- Settles O25: the fill byte is received, and denoising leaves a frame too short. -/
theorem loneFillByteIsMalformed : Obligations.LoneFillByteIsMalformed := by
  intro s hp hmax
  have hraw : (deliver [idleFillByte] s).rxRaw = [idleFillByte] := takeAtMost_of_le hmax
  have hexec : exec .idleFill s = parseOp (deliver [idleFillByte] s) := receiveAndParse_open hp _
  have hshort : (denoise (deliver [idleFillByte] s).rxRaw).length < 5 := by rw [hraw]; decide
  rw [hexec, parseOp_short (by rw [hraw]; decide) hshort, deliver, takeAtMost_of_le hmax]
  rfl

/-- Settles O36: the receive of the exchange takes the row's bytes, and receiving and parsing them is the row. -/
theorem exchangeRunsTheFrameReceived : Obligations.ExchangeRunsTheFrameReceived := by
  intro sub i bs ws rest s hp hd hws hrest
  obtain ⟨he, hdir, -⟩ := decode_eq_ok_iff.mp hd
  have hw := drawWrite_pending hws
  have hr := drawReceive_pending (s := settleOp (commanded sub s)) (raw := bs) (rest := rest) (by simp [commanded, hw, hrest])
  calc exchangeOp sub s
      = readBack (commanded sub s) := exchangeOp_written hp (by rw [hw])
    _ = receiveAndParse bs _ := by rw [readBack, hr]
    _ = exec i _ := (exec_inbound hdir he _).symm
    _ = _ := by simp only [commanded, settleOp, emit, hw, List.append_assoc]; rfl

/-- Settles O39: the frame built is `FD 46 04` and its checksum; no event is emitted. -/
theorem endScanIsBuiltNotSent : Obligations.EndScanIsBuiltNotSent := by
  intro s
  have hexec : exec .endScan s = .next (buildOp addrBroadcast funcExt subEnd s) := rfl
  rw [hexec, buildOp_eq, buildFrame, checksum_endScan]
  rfl

end Sys2Proof.Proofs
end

