-- ==== Sys2Proof/Proofs/ChecksumAlgebra.lean ====
section
/-! PROOFS. The checksum as arithmetic on words: a shift is linear over XOR and loses nothing, so that different accumulators and
different bytes never meet in one result, and a frame is accepted exactly when its own checksum is zero (R112 to R116, R121, R122). -/

namespace Sys2Proof.Machine

/-! ### One shift (R113) -/

theorem crcShift_of_even {acc : Word16} (h : acc.getLsbD 0 = false) : crcShift acc = acc >>> 1 := by
  rw [crcShift, h]; rfl

theorem crcShift_of_odd {acc : Word16} (h : acc.getLsbD 0 = true) : crcShift acc = (acc >>> 1) ^^^ crcPoly := by
  rw [crcShift, h]; rfl

/-- The bit shifted out comes back as bit 15, the top bit of the polynomial. -/
theorem crcShift_getLsbD_15 (acc : Word16) : (crcShift acc).getLsbD 15 = acc.getLsbD 0 := by
  cases h : acc.getLsbD 0 with
  | false => simp [crcShift_of_even h]
  | true => simp [crcShift_of_odd h]

/-- A shift is linear over XOR: the polynomial is fed back once for each odd operand, and twice is not at all (R115). -/
theorem crcShift_xor (a b : Word16) : crcShift (a ^^^ b) = crcShift a ^^^ crcShift b := by
  have hlow : (a ^^^ b).getLsbD 0 = (a.getLsbD 0 ^^ b.getLsbD 0) := BitVec.getLsbD_xor
  have hshift : (a ^^^ b) >>> 1 = (a >>> 1) ^^^ (b >>> 1) := BitVec.ushiftRight_xor_distrib a b 1
  cases ha : a.getLsbD 0 <;> cases hb : b.getLsbD 0 <;> rw [ha, hb] at hlow
  · rw [crcShift_of_even hlow, crcShift_of_even ha, crcShift_of_even hb, hshift]
  · rw [crcShift_of_odd hlow, crcShift_of_even ha, crcShift_of_odd hb, hshift, BitVec.xor_assoc]
  · rw [crcShift_of_odd hlow, crcShift_of_odd ha, crcShift_of_even hb, hshift]; ac_rfl
  · rw [crcShift_of_even hlow, crcShift_of_odd ha, crcShift_of_odd hb, hshift]
    calc (a >>> 1) ^^^ (b >>> 1)
        = (a >>> 1) ^^^ (b >>> 1) ^^^ (crcPoly ^^^ crcPoly) := by rw [BitVec.xor_self, BitVec.xor_zero]
      _ = ((a >>> 1) ^^^ crcPoly) ^^^ ((b >>> 1) ^^^ crcPoly) := by ac_rfl

/-- Only zero shifts to zero: bit 15 of the result is the bit shifted out, and nothing else is lost. -/
theorem eq_zero_of_crcShift_eq_zero {acc : Word16} (h : crcShift acc = 0#16) : acc = 0#16 := by
  have hlow : acc.getLsbD 0 = false := by rw [← crcShift_getLsbD_15, h]; rfl
  rw [crcShift_of_even hlow] at h
  apply BitVec.eq_of_getLsbD_eq
  intro i hi
  cases i with
  | zero => exact hlow
  | succ i => rw [Nat.add_comm, ← BitVec.getLsbD_ushiftRight, h, BitVec.getLsbD_zero, BitVec.getLsbD_zero]

theorem crcShift_injective : Function.Injective crcShift := by
  intro a b h
  have hdiff : crcShift (a ^^^ b) = 0#16 := by rw [crcShift_xor, h, BitVec.xor_self]
  exact BitVec.xor_eq_zero_iff.mp (eq_zero_of_crcShift_eq_zero hdiff)

/-! ### Several shifts (R114, R115) -/

theorem crcShifts_succ (n : Nat) (acc : Word16) : crcShifts (n + 1) acc = crcShifts n (crcShift acc) := rfl

theorem crcShifts_xor (n : Nat) (a b : Word16) : crcShifts n (a ^^^ b) = crcShifts n a ^^^ crcShifts n b := by
  induction n generalizing a b with
  | zero => rfl
  | succ n ih => rw [crcShifts_succ, crcShift_xor, ih, ← crcShifts_succ, ← crcShifts_succ]

theorem crcShifts_injective (n : Nat) : Function.Injective (crcShifts n) := by
  induction n with
  | zero => exact Function.injective_id
  | succ n ih => exact ih.comp crcShift_injective

/-- While only zero bits are shifted out, nothing is fed back. -/
theorem crcShifts_of_low_zero {n : Nat} {acc : Word16} (h : ∀ i < n, acc.getLsbD i = false) : crcShifts n acc = acc >>> n := by
  induction n generalizing acc with
  | zero => exact (BitVec.ushiftRight_zero acc).symm
  | succ n ih =>
    have hrest : ∀ i < n, (acc >>> 1).getLsbD i = false := by
      intro i hi
      rw [BitVec.getLsbD_ushiftRight]; exact h (1 + i) (by omega)
    rw [crcShifts_succ, crcShift_of_even (h 0 (by omega)), ih hrest, ← BitVec.shiftRight_add, Nat.add_comm]

/-! ### One byte (R112, R114, R115) -/

theorem zext16_toNat (b : Byte) : (zext16 b).toNat = b.toNat := BitVec.toNat_setWidth_of_le (by decide)

/-- Widening puts a zero byte above (R14). -/
theorem zext16_eq_le16 (b : Byte) : zext16 b = le16 b 0#8 := by
  apply BitVec.eq_of_toNat_eq
  rw [zext16_toNat, le16_toNat, BitVec.toNat_zero, Nat.zero_mul, Nat.zero_add]

theorem zext16_injective : Function.Injective zext16 := by
  intro a b h
  rw [← crcLo_le16 a 0#8, ← zext16_eq_le16, h, zext16_eq_le16, crcLo_le16]

theorem le16_ushiftRight_eight (lo hi : Byte) : le16 lo hi >>> 8 = zext16 hi := by
  apply BitVec.eq_of_toNat_eq
  rw [BitVec.toNat_ushiftRight, zext16_toNat, le16_toNat, Nat.shiftRight_eq_div_pow]
  omega

/-- XOR acts on the two bytes of a word separately. -/
theorem le16_xor_le16 (lo hi lo' hi' : Byte) : le16 lo hi ^^^ le16 lo' hi' = le16 (lo ^^^ lo') (hi ^^^ hi') := BitVec.xor_append

/-- The byte goes into bits 7:0 only (R112). -/
theorem crcXor_le16 (lo hi b : Byte) : crcXor (le16 lo hi) b = le16 (lo ^^^ b) hi := by
  rw [crcXor, zext16_eq_le16, le16_xor_le16, BitVec.xor_zero]

theorem crcHi_crcXor (acc : Word16) (b : Byte) : crcHi (crcXor acc b) = crcHi acc := by
  rw [← le16_crcBytes acc, crcXor_le16, crcHi_le16, crcHi_le16]

/-- Eight shifts only move an upper byte down, when the lower byte is zero (R115). -/
theorem crcShifts_eight_le16_zero (hi : Byte) : crcShifts 8 (le16 0#8 hi) = zext16 hi := by
  have hlow : ∀ i < 8, (le16 0#8 hi).getLsbD i = false := fun i h => by
    rw [le16, BitVec.getLsbD_append, if_pos h, BitVec.getLsbD_zero]
  rw [crcShifts_of_low_zero hlow, le16_ushiftRight_eight]

/-- `CRC.BYTE` in table form: the upper byte moves down, and the lower byte XOR the operand selects the table's entry (R115). -/
theorem crcByte_le16 (lo hi b : Byte) : crcByte (le16 lo hi) b = zext16 hi ^^^ crcShifts 8 (zext16 (lo ^^^ b)) := by
  have hsplit : crcXor (le16 lo hi) b = le16 0#8 hi ^^^ zext16 (lo ^^^ b) := by
    rw [crcXor_le16, zext16_eq_le16, le16_xor_le16, BitVec.zero_xor, BitVec.xor_zero]
  rw [crcByte, hsplit, crcShifts_xor, crcShifts_eight_le16_zero]

/-- An operand that cancels the lower byte leaves the upper byte alone, moved down. -/
theorem crcByte_le16_own (lo hi : Byte) : crcByte (le16 lo hi) lo = le16 hi 0#8 := by
  rw [crcByte, crcXor_le16, BitVec.xor_self, crcShifts_eight_le16_zero, zext16_eq_le16]

/-- Different accumulators stay different under the same byte. -/
theorem crcByte_injective_left (b : Byte) : Function.Injective (crcByte · b) := by
  intro acc acc' h
  exact (BitVec.xor_left_inj _).mp (crcShifts_injective 8 h)

/-- Different bytes take one accumulator to different results. -/
theorem crcByte_injective_right (acc : Word16) : Function.Injective (crcByte acc) := by
  intro b b' h
  exact zext16_injective ((BitVec.xor_right_inj _).mp (crcShifts_injective 8 h))

/-! ### A sequence of bytes (R116, R121, R122) -/

theorem crcRun_eq_foldl (acc : Word16) (bs : List Byte) : crcRun acc bs = bs.foldl crcByte acc := by
  induction bs generalizing acc with
  | nil => rfl
  | cons b bs ih => exact ih (crcByte acc b)

theorem crcRun_injective_left (bs : List Byte) : Function.Injective (crcRun · bs) := by
  induction bs with
  | nil => exact Function.injective_id
  | cons b bs ih => exact ih.comp (crcByte_injective_left b)

/-- One altered byte alters the result, wherever it stands. -/
theorem crcRun_set_ne {bs : List Byte} {i : Nat} {b : Byte} (hi : i < bs.length) (hb : bs[i]? ≠ some b) (acc : Word16) :
    crcRun acc (bs.set i b) ≠ crcRun acc bs := by
  induction bs generalizing i acc with
  | nil => exact absurd hi (Nat.not_lt_zero i)
  | cons x bs ih =>
    cases i with
    | zero =>
      intro h
      have hbyte : b = x := crcByte_injective_right acc (crcRun_injective_left bs h)
      exact hb (by rw [hbyte]; rfl)
    | succ i => exact ih (Nat.lt_of_succ_lt_succ hi) hb (crcByte acc x)

/-- An accumulator run over its own two bytes, the low one first, ends at zero (R121). -/
theorem crcRun_own_bytes (lo hi : Byte) : crcRun (le16 lo hi) [lo, hi] = 0#16 := by
  have hlo : crcByte (le16 lo hi) lo = le16 hi 0#8 := crcByte_le16_own lo hi
  have hhi : crcByte (le16 hi 0#8) hi = le16 0#8 0#8 := crcByte_le16_own hi 0#8
  rw [crcRun, hlo, crcRun, hhi]; rfl

/-- Only its own two bytes bring an accumulator to zero (R121). -/
theorem crcRun_pair_eq_zero_iff {acc : Word16} {lo hi : Byte} : crcRun acc [lo, hi] = 0#16 ↔ le16 lo hi = acc := by
  rw [← crcRun_own_bytes lo hi, (crcRun_injective_left [lo, hi]).eq_iff, eq_comm]

theorem checksum_append (xs ys : List Byte) : checksum (xs ++ ys) = crcRun (checksum xs) ys := crcRun_append _ xs ys

/-- The residue of a sealed frame (R121). -/
theorem checksum_sealFrame (body : List Byte) : checksum (sealFrame body) = 0#16 := by
  rw [sealFrame, checksum_append, crcBytes]
  exact crcRun_pair_eq_zero_iff.mpr (le16_crcBytes _)

/-- The comparison of declared and computed checksum is the test that the whole frame's checksum is zero (R121, R144). -/
theorem declared_eq_computed_iff {f : List Byte} (hn : 2 ≤ f.length) :
    le16 (byteAt f (f.length - 2)) (byteAt f (f.length - 1)) = checksum (f.take (f.length - 2)) ↔ checksum f = 0#16 := by
  rw [← crcRun_pair_eq_zero_iff, ← drop_length_sub_two hn, ← checksum_append, List.take_append_drop]

end Sys2Proof.Machine
end

