-- ==== Sys2Proof/Proofs/Checksum.lean ====
section
/-! PROOFS. The statements of spec/40_crc.md: the five operations of the checksum unit, the table form, the residue, and the detection of
an altered byte. -/

namespace Sys2Proof.Machine

open Safety

/-! ### The operations as instructions (R111 to R116) -/

/-- `CRC.SHIFT` writes the accumulator, the count and, past 8, the number of free values drawn (R113; log entry 5). -/
theorem shiftOp_eq (s : State) :
    shiftOp s = { s with crcAcc := crcShift s.crcAcc, crcBit := (shiftOp s).crcBit, freeCount := (shiftOp s).freeCount } := by
  unfold shiftOp
  split <;> rfl

/-- A counted shift (R113). -/
theorem shiftOp_of_lt {s : State} (h : s.crcBit.val < 8) :
    shiftOp s = { s with crcAcc := crcShift s.crcAcc, crcBit := ⟨s.crcBit.val + 1, by omega⟩ } := dif_pos h

theorem exec_crcShift (s : State) : exec .crcShift s = .next (shiftOp s) := rfl
theorem exec_crcByte (b : Byte) (s : State) : exec (.crcByte b) s = .next (byteOp b s) := rfl

theorem execAll_cons {i : Instr} {s t : State} (h : exec i s = .next t) (is : List Instr) : execAll (i :: is) s = execAll is t := by
  rw [execAll, h, andThen_next]

/-- `n` counted shifts run in a row (R114). -/
theorem execAll_replicate_crcShift {n : Nat} {s : State} (h : s.crcBit.val + n < 9) :
    execAll (List.replicate n .crcShift) s =
      .next { s with crcAcc := crcShifts n s.crcAcc, crcBit := ⟨s.crcBit.val + n, h⟩ } := by
  induction n generalizing s with
  | zero => rfl
  | succ n ih =>
    have hfirst : exec .crcShift s = .next _ := congrArg Host.Outcome.next (shiftOp_of_lt (by omega))
    rw [List.replicate_succ, execAll_cons hfirst, ih (by dsimp only; omega)]
    simp only [crcShifts_succ, Nat.add_assoc, Nat.add_comm 1 n]

/-- One XOR and eight shifts run in a row are `CRC.BYTE` (R114). -/
theorem execAll_crcXor_eight_crcShift (b : Byte) (s : State) :
    execAll (.crcXor b :: List.replicate 8 .crcShift) s = .next (byteOp b s) := by
  have hxor : exec (.crcXor b) s = .next (xorOp b s) := rfl
  rw [execAll_cons hxor, execAll_replicate_crcShift (by simp)]
  rfl

/-- `CRC.BYTE` run for each byte in turn (R116). -/
theorem execAll_map_crcByte (bs : List Byte) (s : State) : execAll (bs.map .crcByte) s = .next (bytesOp bs s) := by
  induction bs generalizing s with
  | nil => rfl
  | cons b bs ih => rw [List.map_cons, execAll_cons (exec_crcByte b s), ih, bytesOp]

end Sys2Proof.Machine

namespace Sys2Proof.Proofs

open Machine Safety

/-- Settles O3: both branches of `CRC.SHIFT` shift the accumulator, and the counted one adds one to `crc_bit`. -/
theorem crcShiftShiftsAndFeedsBack : Obligations.CrcShiftShiftsAndFeedsBack := by
  intro s
  refine ⟨shiftOp s, exec_crcShift s, ?_, shiftOp_crcAcc s, ?_, ?_⟩
  · rw [shiftOp_crcAcc]; exact shiftOp_eq s
  · rw [shiftOp_crcAcc]; exact crcShift_getLsbD_15 s.crcAcc
  · intro h
    exact ⟨shiftOp_crcBit h, by rw [shiftOp_of_lt h]⟩

/-- Settles O4: eight shifts from `crc_bit` 0 are all counted. -/
theorem crcByteIsXorThenEightShifts : Obligations.CrcByteIsXorThenEightShifts := by
  refine ⟨fun b => rfl, fun b s => ⟨?_, exec_crcByte b s⟩, by decide⟩
  rw [execAll_crcXor_eight_crcShift, exec_crcByte]

/-- Settles O5: the run over the bytes is a fold of `CRC.BYTE`, from whatever `CRC.INIT` leaves. -/
theorem crcSeqIsInitThenEachByte : Obligations.CrcSeqIsInitThenEachByte := by
  refine ⟨fun bs => rfl, fun bs s => ?_, by decide⟩
  have hinit : exec .crcInit s = .next (initOp s) := rfl
  have hseq : exec (.crcSeq bs) s = .next (seqOp bs s) := rfl
  constructor
  · rw [execAll_cons hinit, execAll_map_crcByte, hseq, seqOp]
  · rw [hseq, seqOp_eq, checksum, crcRun_eq_foldl]; rfl

/-- Settles O6: linearity splits the accumulator into its two bytes, and eight shifts only move the upper one down. -/
theorem crcByteHasTableForm : Obligations.CrcByteHasTableForm := by
  refine ⟨fun acc b => ?_, by decide⟩
  have hlo : acc.setWidth 8 = crcLo acc := BitVec.setWidth_eq_extractLsb' (by decide)
  have hhi : acc >>> 8 = zext16 (crcHi acc) := by rw [← le16_ushiftRight_eight (crcLo acc), le16_crcBytes]
  rw [hlo, hhi, ← zext16, ← crcByte_le16, le16_crcBytes]

/-- Settles O7: the accumulator cancels against its own two bytes. -/
theorem crcResidueIsZero : Obligations.CrcResidueIsZero := checksum_sealFrame

/-- Settles O8: a sealed frame has checksum zero, an altered byte takes it away from zero, and the comparison tests for zero. -/
theorem oneAlteredByteIsDetected : Obligations.OneAlteredByteIsDetected := by
  intro m i b hi hb w hsame
  have hlen : 2 ≤ w.length := by simp [w]
  have hzero : checksum w = checksum (sealFrame m) := by
    rw [(declared_eq_computed_iff hlen).mp hsame, checksum_sealFrame]
  exact crcRun_set_ne hi hb _ hzero

/-- Settles O1, by the definition of `CRC.INIT`. -/
theorem crcInitLoadsInitialValue : Obligations.CrcInitLoadsInitialValue := ⟨rfl, fun _ => rfl⟩

/-- Settles O2: the word is its two bytes, and the XOR meets the lower one only. -/
theorem crcXorChangesLowByteOnly : Obligations.CrcXorChangesLowByteOnly := by
  refine ⟨fun b => rfl, fun b s => ⟨rfl, crcHi_crcXor s.crcAcc b⟩, fun acc => ?_, by decide⟩
  exact BitVec.xor_zero

end Sys2Proof.Proofs
end

