-- ==== Sys2Proof/Proofs/Encoder.lean ====
section
/-! PROOFS. The statements of spec/41_frame_encoder.md: the frame built, and what the decoder makes of a sealed frame that holds no fill
byte (R131, R137). -/

namespace Sys2Proof.Machine

open Safety

/-- The two checksum bytes of a frame, weighted little-endian, are the checksum as a number (R53, R132). -/
theorem crcLo_add_crcHi (c : Word16) : (crcLo c).toNat + 256 * (crcHi c).toNat = c.toNat := by
  have h : (le16 (crcLo c) (crcHi c)).toNat = (crcHi c).toNat * 256 + (crcLo c).toNat := le16_toNat _ _
  rw [le16_crcBytes] at h
  omega

/-- A sealed frame passes the checksum test (R86, R144). -/
theorem goodChecksum_sealFrame (body : List Byte) : goodChecksum (sealFrame body) = true := by
  rw [goodChecksum_iff_drop (by simp), take_sealFrame, drop_sealFrame]

@[simp] theorem parsed_crcOk (k : Kind) (s : State) : (parsed k s).crcOk = s.crcOk := by
  rw [parsed, recordKind_crcOk, raiseKind_crcOk]

/-- Once the length test passes, a parse leaves the checksum test's outcome in `crc_ok` (R26, R144). -/
theorem parseOp_crcOk_eq {s t : State} (h : parseOp s = .next t) (hn : 5 ≤ (denoise s.rxRaw).length) :
    t.crcOk = goodChecksum (denoise s.rxRaw) := by
  have hv : (validated (denoiseOp s)).crcOk = goodChecksum (denoise s.rxRaw) := validated_crcOk _
  cases parseOp_cases h with
  | empty h ht => simp [h, denoise] at hn
  | short h hs ht => omega
  | mismatch h hn hc ht => rw [← hv, ht, parsed_crcOk]
  | header k h hn hc hk ht => rw [← hv, ht, parsed_crcOk]
  | record h hn hc hk hl ht => rw [← hv, ht, parsed_crcOk]
  | device h hc hk hl ht => rw [← hv, ht, parsed_crcOk, withDevice]

/-- A sealed frame without fill bytes gets past the length and checksum tests, and its body decides the kind (R137, R149). -/
theorem parseTree_sealFrame {body : List Byte} (hf : noFill (sealFrame body) = true) (hl : 3 ≤ body.length) :
    parseTree (sealFrame body) =
      (headerKind body).getD (if body.length = 8 then .deviceFound else .malformedDeviceRecord) := by
  have hne : sealFrame body ≠ [] := List.ne_nil_of_length_pos (by simp)
  rw [parseTree_eq_kindOfDecode hne, denoise_of_noFill hf, decodeInbound_sealFrame hf hl, kindOfDecode_decodeBody hl]

/-- The header test and the type test on three header bytes (R145, R146). -/
theorem headerKind_triple (a f sub : Byte) :
    headerKind [a, f, sub] =
      if a = addrBroadcast ∧ f = funcExt then
        if sub = subEnd then some .scanEnded else if sub = subResponse then none else some .unrecognizedFrame
      else some .unrecognizedFrame := by
  have h0 : byteAt [a, f, sub] 0 = a := rfl
  have h1 : byteAt [a, f, sub] 1 = f := rfl
  have h2 : byteAt [a, f, sub] 2 = sub := rfl
  rw [headerKind, h0, h1, h2]
  by_cases hgood : a = addrBroadcast ∧ f = funcExt
  · rw [if_pos hgood, if_neg (by simp [hgood])]
  · rw [if_neg hgood, if_pos (not_and_or.mp hgood)]

end Sys2Proof.Machine

namespace Sys2Proof.Proofs

open Machine Safety

/-- Settles O9: the build is one update of three registers, and its last two bytes are the checksum's. -/
theorem encBuildMakesSealedFrame : Obligations.EncBuildMakesSealedFrame := by
  refine ⟨fun a f sub => rfl, fun a f sub s => ?_, by decide +kernel⟩
  have hexec : exec (.encBuild a f sub) s = .next (buildOp a f sub s) := rfl
  rw [hexec, buildOp_eq]
  exact ⟨_, rfl, rfl, buildFrame_toBytes a f sub, crcLo_add_crcHi (checksum [a, f, sub])⟩

/-- Settles O10: a built frame is a sealed frame of five bytes, so only the header, the type and the length of a record are left to test. -/
theorem builtFrameParsesByHeaderAndType : Obligations.BuiltFrameParsesByHeaderAndType := by
  intro a f sub s hraw hf
  rw [buildFrame_toBytes] at hraw
  have hdenoise : denoise s.rxRaw = sealFrame [a, f, sub] := (denoise_of_noFill hf).trans hraw
  have hshort : [a, f, sub].length ≠ 8 := by simp
  obtain ⟨t, ht, -⟩ := parseOp_next s
  refine ⟨t, ht, ?_, ?_⟩
  · rw [parseOp_crcOk_eq ht (by simp [hdenoise]), hdenoise, goodChecksum_sealFrame]
  · rw [parseOp_kind ht, hraw, parseTree_sealFrame (hraw ▸ hf) (by simp), headerKind_triple, if_neg hshort]
    split_ifs <;> rfl

end Sys2Proof.Proofs
end

