-- ==== Sys2Proof/Proofs/Decoder.lean ====
section
/-! PROOFS. The statements of spec/42_frame_decoder.md: denoising, the three tests of a frame one by one, and the whole parse
(R141 to R149). -/

namespace Sys2Proof.Machine

/-! What each decoder row runs (R140). -/

theorem exec_decDenoise (s : State) : exec .decDenoise s = .next (denoiseOp s) := rfl
theorem exec_decValidate (s : State) : exec .decValidate s = validateOp s := rfl
theorem exec_decClassify (s : State) : exec .decClassify s = classifyOp s := rfl
theorem exec_decExtract (s : State) : exec .decExtract s = extractOp s := rfl
theorem exec_decParse (s : State) : exec .decParse s = parseOp s := rfl

/-! ### Denoising (R141) -/

/-- Every byte is kept or is one of the fill bytes. -/
theorem denoise_length_add_count (bs : List Byte) : (denoise bs).length + bs.count idleFillByte = bs.length := by
  have hfill : bs.count idleFillByte = (bs.filter (fun b => !(b != idleFillByte))).length := by
    simp [List.count, List.countP_eq_length_filter, bne]
  rw [denoise_eq_filter, hfill]
  exact (List.length_eq_length_filter_add _).symm

theorem denoise_denoise (bs : List Byte) : denoise (denoise bs) = denoise bs := denoise_of_noFill (noFill_denoise bs)

theorem denoise_eq_nil_of_all_fill {bs : List Byte} (h : ∀ b ∈ bs, b = idleFillByte) : denoise bs = [] := by
  rw [denoise_eq_filter, List.filter_eq_nil_iff]
  intro b hb
  simp [h b hb]

theorem noFill_of_not_mem {bs : List Byte} (h : idleFillByte ∉ bs) : noFill bs = true :=
  List.all_eq_true.mpr fun _ hb => bne_iff_ne.mpr fun e => h (e ▸ hb)

/-! ### The tests of a frame -/

/-- The two wire bytes weighted little-endian, low byte first (R53, R86). -/
theorem le16_toNat_low_first (lo hi : Byte) : (le16 lo hi).toNat = lo.toNat + 256 * hi.toNat := by
  rw [le16_toNat, Nat.mul_comm, Nat.add_comm]

/-- The flag says whether the two checksums are equal (R26, R144). -/
theorem validated_crcOk_iff (s : State) : (validated s).crcOk = true ↔ (validated s).declared = (validated s).computed :=
  beq_iff_eq

/-- `DEC.VALIDATE` past the length test: the registers of `validated`, and the comparison of the two checksums as its result (R144). -/
theorem validateOp_verdict {s : State} (h : 5 ≤ s.frm.length) :
    validateOp s =
      .next (setResult (if (validated s).declared = (validated s).computed then .passed else .raised .checksumMismatch)
        (validated s)) := by
  rw [validateOp_long h]
  simp only [validated_crcOk_iff]
  split_ifs <;> rfl

end Sys2Proof.Machine

namespace Sys2Proof.Proofs

open Machine Safety

/-- Settles O12: on either side of the length test `DEC.VALIDATE` is one update; past it, of the registers of `validated`. -/
theorem validateTestsLengthThenChecksum : Obligations.ValidateTestsLengthThenChecksum := by
  intro s
  rw [exec_decValidate]
  refine ⟨validateOp_short, fun hn => ⟨_, validateOp_verdict hn, ?_⟩⟩
  exact ⟨rfl, le16_toNat_low_first _ _, rfl, rfl, validated_crcOk_iff s, rfl⟩

/-- Settles O16: of what a parse can do, the kind and the device fields are functions of the bytes received. -/
theorem parseFollowsDecisionTree : Obligations.ParseFollowsDecisionTree := by
  intro s
  obtain ⟨t, ht, hresult, hfrm, -, -, hframe⟩ := parseOp_next s
  obtain ⟨hserial, hbusAddr⟩ := parseOp_device_fields ht
  rw [denoise_eq_filter] at hfrm
  exact ⟨t, (exec_decParse s).trans ht, parseOp_kind ht, hresult, hfrm, hserial, hbusAddr, hframe⟩

/-- Settles O11: denoising is a filter that keeps what is not fill. -/
theorem denoiseDeletesEveryFillByte : Obligations.DenoiseDeletesEveryFillByte := by
  refine ⟨rfl, fun s => ?_, fun raw => ⟨?_, denoise_denoise raw, denoise_eq_nil_of_all_fill, ?_⟩, by decide⟩
  · rw [exec_decDenoise, denoiseOp, denoise_eq_filter]
  · exact Nat.eq_sub_of_add_eq (denoise_length_add_count raw)
  · exact fun h => denoise_of_noFill (noFill_of_not_mem h)

/-- Settles O13: where its precondition holds, `DEC.CLASSIFY` ends with what the header test and the type test make of the frame. -/
theorem classifyTestsHeaderThenType : Obligations.ClassifyTestsHeaderThenType := by
  intro s hc hn
  rw [exec_decClassify, classifyOp_good hc hn, headerKind]
  split_ifs <;> rfl

/-- Settles O14, by the two rules of `DEC.EXTRACT` on a device record and the big-endian value of the four serial bytes. -/
theorem extractDecodesTenByteRecord : Obligations.ExtractDecodesTenByteRecord := by
  intro s hn h2
  rw [exec_decExtract]
  exact ⟨extractOp_wrong hn h2, fun hl => ⟨_, be32_toNat _ _ _ _, extractOp_right hl h2⟩⟩

end Sys2Proof.Proofs
end

