-- ==== Sys2Proof/Proofs/Exchange.lean ====
section
/-! PROOFS. The exchange: its parts run one after another, and everything it leaves, for either answer of the write (R185, R188). -/

namespace Sys2Proof.Machine

open Safety

/-! ### The parts in order (R185) -/

/-- Nothing follows the last operation of a sequence. -/
theorem andThen_self (o : Answer) : andThen o .next = o := by cases o <;> rfl

theorem execAll_singleton (i : Instr) (s : State) : execAll [i] s = exec i s := andThen_self (exec i s)

/-- The build and the write run one after another (R185 steps 1 and 2). -/
theorem execAll_build_write {s : State} (hp : s.portOpen = true) (sub : Byte) :
    execAll [.encBuild addrBroadcast funcExt sub, .xportWrite] s = .next (commanded sub s) := by
  have hbuild : exec (.encBuild addrBroadcast funcExt sub) s = .next (buildOp addrBroadcast funcExt sub s) := rfl
  rw [execAll_cons hbuild, execAll_singleton]
  exact writeOp_buildOp hp sub

/-- The settle wait, the receive and the parse run one after another (R185 steps 4 to 7). -/
theorem execAll_settle_recv_parse {s : State} (hp : s.portOpen = true) :
    execAll [.xportSettle, .xportRecv, .decParse] s = readBack s := by
  have hdrawn : (drawReceive (settleOp s)).2.portOpen = true := by rw [drawReceive_state]; exact hp
  have hsettle : exec .xportSettle s = .next (settleOp s) := rfl
  have hrecv : exec .xportRecv (settleOp s) = .next _ := recvOp_open (s := settleOp s) hp
  rw [execAll_cons hsettle, execAll_cons hrecv, execAll_singleton]
  exact (receiveAndParse_open hdrawn _).symm

/-- The write's answer is what ends an exchange at its write (R185 step 3). -/
theorem commanded_result_eq_writeError {sub : Byte} {s : State} :
    (commanded sub s).result = .writeError ↔ (drawWrite s).1 = .writeError := by
  cases h : (drawWrite s).1 <;> simp [commanded, h]

/-! ### What an exchange leaves -/

/-- The frame the encoder builds for a subcommand is the one the trace grammar expects (R81, R134). -/
theorem buildFrame_toBytes_eq_commandFrame (sub : Byte) : (buildFrame addrBroadcast funcExt sub).toBytes = commandFrame sub := rfl

/-- After a whole exchange: the kind and the device fields are the decision tree's of the bytes received, its three events are in the
trace, and the rate, the handle, the reporter and the parameters are as before (R66, R149, R185). -/
structure Exchanged (sub : Byte) (s t : State) : Prop where
  txBuf : t.txBuf = buildFrame addrBroadcast funcExt sub
  rxRaw : t.rxRaw = takeAtMost (drawReceive (commanded sub s)).1 s.params.rxMax
  kind : t.kind = parseTree t.rxRaw
  serial : t.serial = if t.kind = .deviceFound then some (treeSerial t.rxRaw) else none
  busAddr : t.busAddr = if t.kind = .deviceFound then some (treeBusAddr t.rxRaw) else none
  events : t.events = s.events ++ [.tx (commandFrame sub) .written, .settle s.params.settleInterval, .rx t.rxRaw]
  rateIdx : t.rateIdx = s.rateIdx
  portOpen : t.portOpen = s.portOpen
  reporter : t.reporter = s.reporter
  params : t.params = s.params
  answers : t.answers = (drawReceive (commanded sub s)).2.answers

/-- The parse of what was heard after a good write ends a whole exchange (R185 steps 5 to 7). -/
theorem exchanged_of_parse {sub : Byte} {s t : State} (hw : (drawWrite s).1 = .written)
    (ht : parseOp (heard (commanded sub s)) = .next t) : Exchanged sub s t := by
  obtain ⟨htx, hrx, -, hrate, hport, hrep, hanswers, hevents, hparams, -⟩ := parseOp_frame ht
  obtain ⟨hserial, hbusAddr⟩ := parseOp_device_fields ht
  exact {
    txBuf := htx
    rxRaw := hrx
    kind := by rw [hrx]; exact parseOp_kind ht
    serial := by rw [hrx]; exact hserial
    busAddr := by rw [hrx]; exact hbusAddr
    events := by rw [hevents, hrx]; simp [heard, commanded, hw, buildFrame_toBytes_eq_commandFrame]
    rateIdx := hrate
    portOpen := hport
    reporter := hrep
    params := hparams
    answers := hanswers }

/-- What is received stays within the bound (R24, R214). -/
theorem Exchanged.rxRaw_length_le {sub : Byte} {s t : State} (h : Exchanged sub s t) : t.rxRaw.length ≤ s.params.rxMax := by
  rw [h.rxRaw]; exact takeAtMost_length_le _ _

/-- An exchange whose write is answered `Written` completes (R185). -/
theorem exchangeOp_exchanged {sub : Byte} {s : State} (hp : s.portOpen = true) (hw : (drawWrite s).1 = .written) :
    ∃ t, exchangeOp sub s = .next t ∧ t.result = .raised t.kind ∧ Exchanged sub s t := by
  obtain ⟨t, ht, hresult, -⟩ := parseOp_next (heard (commanded sub s))
  exact ⟨t, ((exchangeOp_written hp hw).trans (readBack_open hp)).trans ht, hresult, exchanged_of_parse hw ht⟩

/-- The event of a write that failed (R188). -/
theorem commanded_events_of_writeError {sub : Byte} {s : State} (hw : (drawWrite s).1 = .writeError) :
    (commanded sub s).events = s.events ++ [.tx (commandFrame sub) .writeError] := by
  simp [commanded, hw, buildFrame_toBytes_eq_commandFrame]

/-- The events of an exchange cut short, its diagnostic among them (R188). -/
theorem cutShortAt_events {baud : Nat} {sub : Byte} {s : State} (hw : (drawWrite s).1 = .writeError) :
    (cutShortAt baud sub s).events = s.events ++ [.tx (commandFrame sub) .writeError, .diag .transportWriteError (.rate baud)] := by
  rw [cutShortAt, commanded_events_of_writeError hw, List.append_assoc]; rfl

end Sys2Proof.Machine

namespace Sys2Proof.Proofs

open Machine Safety

/-- Settles O34: both halves of the exchange are their instructions run in order. -/
theorem exchangeRunsPartsInOrder : Obligations.ExchangeRunsPartsInOrder := by
  intro sub s hp
  have hexec : exec (.scanExchange sub) s = exchangeOp sub s := rfl
  rw [hexec, execAll_build_write hp, andThen_next]
  cases hw : (drawWrite s).1 with
  | writeError =>
    rw [if_pos (commanded_result_eq_writeError.mpr hw)]
    exact exchangeOp_writeError hp hw
  | written =>
    rw [if_neg (by simp [commanded_result_eq_writeError, hw])]
    exact (exchangeOp_written hp hw).trans (execAll_settle_recv_parse (s := commanded sub s) hp).symm

/-- Settles O35: for either answer of the write the exchange completes, and the access table bounds what it writes. -/
theorem exchangeCompletesWithOneCommand : Obligations.ExchangeCompletesWithOneCommand := by
  intro sub s hp
  cases hw : (drawWrite s).1 with
  | writeError =>
    have ht := exchangeOp_writeError (sub := sub) hp hw
    have hframe := quiet_exchangeOp ht
    exact ⟨_, ht, rfl, hframe.outside, hframe.reporter,
      fun _ => ⟨commanded_events_of_writeError hw, rfl, rfl, rfl, rfl⟩, nofun⟩
  | written =>
    obtain ⟨t, ht, hresult, h⟩ := exchangeOp_exchanged (sub := sub) hp hw
    have hframe := quiet_exchangeOp ht
    exact ⟨t, ht, congrArg CmdFrame.toBytes h.txBuf, hframe.outside, hframe.reporter,
      nofun, fun _ => ⟨h.events, hresult, h.kind, h.rxRaw_length_le⟩⟩

end Sys2Proof.Proofs
end

