-- ==== Sys2Proof/Proofs/TraceShape.lean ====
section
/-! PROOFS. A step emits what the trace grammar allows in the phase it starts from, and ends in the phase its control state stands for
(R202). -/

namespace Sys2Proof.Safety

open Machine

/-! ### The grammar run forwards -/

/-- Every event of `PhaseStep` may come: the converse of `phaseStep_of_nextPhase`. -/
theorem PhaseStep.nextPhase_eq {p : Params} {ph ph' : Phase} {e : Event} (h : PhaseStep p ph e ph') : nextPhase p ph e = some ph' := by
  cases h <;> simp_all [nextPhase]

/-- An event that may come leads on to the rest of the trace. -/
theorem PhaseStep.runPhases_cons {p : Params} {ph ph' : Phase} {e : Event} (h : PhaseStep p ph e ph') (es : List Event) :
    runPhases p ph (e :: es) = runPhases p ph' es := by
  rw [runPhases, h.nextPhase_eq]

/-- The trace so far has the shape of R202 and has come as far as a phase. -/
def CameTo (ph : Phase) (s : State) : Prop := runPhases s.params (.between 0) s.events = some ph

/-- New events lead the trace on from the phase it had come to. -/
theorem CameTo.append {ph ph' : Phase} {s t : State} {es : List Event} (h : CameTo ph s) (hparams : t.params = s.params)
    (hevents : t.events = s.events ++ es) (hrun : runPhases s.params ph es = some ph') : CameTo ph' t := by
  rw [CameTo, hparams, hevents, runPhases_append, h]
  exact hrun

/-! ### The phase of a control state -/

/-- Where a whole exchange leaves the trace: at the close if the kind ends the session, else at the reaction to the bytes (R189 to R195). -/
def heardPhase (r : Nat) (raw : List Byte) : Phase :=
  if classOf (parseTree raw) = .terminal then .closing r else .answered r raw

section
variable {s : State}

theorem traceInv_idle (h : s.session = .idle) : TraceInv s ↔ CameTo (.between s.rateIdx.val) s := by
  rw [TraceInv, phaseOf, h, CameTo]

theorem traceInv_started (h : s.session = .started) (hk : s.kind = parseTree s.rxRaw) :
    TraceInv s ↔ CameTo (heardPhase s.rateIdx.val s.rxRaw) s := by
  rw [TraceInv, phaseOf, h, hk, CameTo, heardPhase]

theorem traceInv_continuing (h : s.session = .continuing) : TraceInv s ↔ CameTo (.ready s.rateIdx.val subContinue) s := by
  rw [TraceInv, phaseOf, h, CameTo]

theorem traceInv_ended_open (h : s.session = .ended) (hp : s.portOpen = true) : TraceInv s ↔ CameTo (.closing s.rateIdx.val) s := by
  rw [TraceInv, phaseOf, h, CameTo, hp]; rfl

theorem traceInv_ended_closed (h : s.session = .ended) (hp : s.portOpen = false) :
    TraceInv s ↔ CameTo (.between (s.rateIdx.val + 1)) s := by
  rw [TraceInv, phaseOf, h, CameTo, hp]; rfl

end

/-! ### The operations of a step -/

/-- An open that succeeded (R186). -/
theorem cameTo_openedAt {r baud : Nat} {s : State} (h : CameTo (.between r) s) (hb : baudTable[r]? = some baud) :
    CameTo (.ready r subStart) (openedAt baud s) :=
  h.append rfl rfl ((PhaseStep.opened r baud hb).runPhases_cons [])

/-- An open that failed, and its diagnostic (R187). -/
theorem cameTo_skippedAt {r baud : Nat} {s : State} (h : CameTo (.between r) s) (hb : baudTable[r]? = some baud) :
    CameTo (.between (r + 1)) (skippedAt baud s) := by
  refine h.append rfl rfl ?_
  rw [(PhaseStep.openError r baud hb).runPhases_cons, (PhaseStep.skipped r baud hb).runPhases_cons, runPhases]

/-- A write that failed, and its diagnostic (R188). -/
theorem cameTo_cutShortAt {r baud : Nat} {sub : Byte} {s : State} (h : CameTo (.ready r sub) s) (hw : (drawWrite s).1 = .writeError)
    (hb : baudTable[r]? = some baud) : CameTo (.closing r) (cutShortAt baud sub s) := by
  refine h.append rfl (cutShortAt_events hw) ?_
  rw [(PhaseStep.writeError r sub).runPhases_cons, (PhaseStep.writeDiagnosed r baud hb).runPhases_cons, runPhases]

/-- A receive leads to the close or to the reaction, as its kind says (R171). -/
theorem phaseStep_rx {p : Params} {r : Nat} {raw : List Byte} (hl : raw.length ≤ p.rxMax) :
    PhaseStep p (.settled r) (.rx raw) (heardPhase r raw) := by
  unfold heardPhase
  split
  case isTrue hc => exact .terminal r raw hl hc
  case isFalse hc => exact .answered r raw hl hc

/-- A whole exchange (R64, R185). -/
theorem cameTo_exchanged {r : Nat} {sub : Byte} {s t : State} (h : CameTo (.ready r sub) s) (ht : Exchanged sub s t) :
    CameTo (heardPhase r t.rxRaw) t := by
  refine h.append ht.params ht.events ?_
  rw [(PhaseStep.written r sub).runPhases_cons, (PhaseStep.settled r).runPhases_cons,
    (phaseStep_rx ht.rxRaw_length_le).runPhases_cons, runPhases]

/-- A close (R198, R215). -/
theorem cameTo_close {r : Nat} {s : State} (h : CameTo (.closing r) s) : CameTo (.between (r + 1)) (emit .close (setPort false s)) :=
  h.append rfl rfl ((PhaseStep.closed r).runPhases_cons [])

/-! ### The reaction to an exchange -/

/-- `kind` and the device fields are what the last receive parses to: `StartedInv` without its guard. -/
structure KindOfReceive (s : State) : Prop where
  kind : s.kind = parseTree s.rxRaw
  device : s.kind = .deviceFound → s.serial = some (treeSerial s.rxRaw) ∧ s.busAddr = some (treeBusAddr s.rxRaw)

theorem startedInv_of_ne {s : State} (h : s.session ≠ .started) : StartedInv s := fun hs => absurd hs h

theorem kindOfReceive_of_started {s : State} (h : StartedInv s) (hs : s.session = .started) : KindOfReceive s := by
  obtain ⟨hkind, hdevice⟩ := h hs
  exact ⟨hkind, hdevice⟩

/-- A whole exchange leaves the kind and the fields of what it received. -/
theorem kindOfReceive_of_exchanged {sub : Byte} {s t : State} (h : Exchanged sub s t) : KindOfReceive t where
  kind := h.kind
  device hk := ⟨by rw [h.serial, if_pos hk], by rw [h.busAddr, if_pos hk]⟩

/-- After an exchange the reaction emits the one event the phase allows, or none before the close (R189 to R195). -/
theorem actOnKind_traceInv {s t : State} (hk : KindOfReceive s) (hcame : CameTo (heardPhase s.rateIdx.val s.rxRaw) s)
    (hp : s.portOpen = true) (ht : actOnKind s = .next t) : TraceInv t := by
  obtain ⟨hkind, hdevice⟩ := hk
  obtain ⟨hc, rfl⟩ | ⟨n, a, hfound, hn, ha, rfl⟩ | ⟨k, hc, rfl⟩ := actOnKind_cases ht
  · rw [hkind] at hc
    rw [heardPhase, if_pos hc] at hcame
    exact (traceInv_ended_open rfl (by simpa using hp)).mpr hcame
  · obtain ⟨hserial, hbusAddr⟩ := hdevice hfound
    cases hn.symm.trans hserial
    cases ha.symm.trans hbusAddr
    rw [hkind] at hfound
    rw [heardPhase, if_neg (by simp [hfound, classOf])] at hcame
    exact (traceInv_continuing rfl).mpr (hcame.append rfl rfl ((PhaseStep.reported _ _ hfound).runPhases_cons []))
  · rw [hkind] at hc
    rw [heardPhase, if_neg (by simp [hc])] at hcame
    exact (traceInv_continuing rfl).mpr (hcame.append rfl rfl ((PhaseStep.diagnosed _ _ k hc).runPhases_cons []))

/-- A reaction never ends in `Started` (R189 to R195). -/
theorem actOnKind_startedInv {s t : State} (ht : actOnKind s = .next t) : StartedInv t := by
  obtain ⟨hsession, -, -⟩ := actOnKind_control ht
  exact startedInv_of_ne (by rcases hsession with h | h <;> simp [h])

end Sys2Proof.Safety

namespace Sys2Proof.Proofs

open Machine Safety

/-- Settles O48: each of the outcomes of a step leads the trace on from the phase of its control state, and only the start exchange
ends in `Started`, with its parse in the registers. -/
theorem stepKeepsTraceShape : Obligations.StepKeepsTraceShape := by
  intro s t ⟨_, hport, hswept⟩ hstarted htrace hstep
  cases step_cases hstep with
  | openError baud hs hp hb hd ht =>
    subst ht
    have hcame := (traceInv_idle hs).mp htrace
    exact ⟨startedInv_of_ne (by simp), (traceInv_ended_closed rfl (by simpa using hp)).mpr (cameTo_skippedAt hcame hb)⟩
  | startCut baud hs hp hb hd hw ht =>
    subst ht
    have hcame := cameTo_openedAt ((traceInv_idle hs).mp htrace) hb
    exact ⟨startedInv_of_ne (by simp), (traceInv_ended_open rfl rfl).mpr (cameTo_cutShortAt hcame hw hb)⟩
  | startParsed baud u hs hp hb hd hw hu ht =>
    subst ht
    have hx := exchanged_of_parse hw hu
    have hk := kindOfReceive_of_exchanged hx
    have hcame := cameTo_exchanged (cameTo_openedAt ((traceInv_idle hs).mp htrace) hb) hx
    rw [← openedAt_rateIdx baud s, ← hx.rateIdx] at hcame
    exact ⟨fun _ => ⟨hk.kind, hk.device⟩, (traceInv_started (s := setSession .started u) rfl hk.kind).mpr hcame⟩
  | reacted hs ht =>
    have hk := kindOfReceive_of_started hstarted hs
    have hcame := (traceInv_started hs hk.kind).mp htrace
    exact ⟨actOnKind_startedInv ht, actOnKind_traceInv hk hcame (hport (.inl hs)) ht⟩
  | continueCut baud hs hp hb hw ht =>
    subst ht
    have hcame := (traceInv_continuing hs).mp htrace
    exact ⟨startedInv_of_ne (by simp), (traceInv_ended_open rfl (by simpa using hp)).mpr (cameTo_cutShortAt hcame hw hb)⟩
  | continueCutOff hs hp hr hw ht => simp [hswept hr] at hs
  | continueParsed u hs hp hw hu ht =>
    have hx := exchanged_of_parse hw hu
    have hcame := cameTo_exchanged ((traceInv_continuing hs).mp htrace) hx
    rw [← hx.rateIdx] at hcame
    exact ⟨actOnKind_startedInv ht, actOnKind_traceInv (kindOfReceive_of_exchanged hx) hcame (hx.portOpen.trans hp) ht⟩
  | ended hs ht =>
    subst ht
    have hne : s.rateIdx.val ≠ 8 := fun h => by simp [hswept h] at hs
    have hnext : (nextRate s.rateIdx).val = s.rateIdx.val + 1 := nextRate_of_lt (by omega)
    refine ⟨startedInv_of_ne (by split <;> simp), ?_⟩
    cases hp : s.portOpen with
    | true =>
      have hcame := cameTo_close ((traceInv_ended_open hs hp).mp htrace)
      rw [← hnext] at hcame
      exact (traceInv_idle rfl).mpr hcame
    | false =>
      have hcame := (traceInv_ended_closed hs hp).mp htrace
      rw [← hnext] at hcame
      exact (traceInv_idle rfl).mpr hcame

end Sys2Proof.Proofs
end

