-- ==== Sys2Proof/Proofs/TraceFacts.lean ====
section
/-! PROOFS. What the trace grammar says of a whole trace: the rates tried and the frames sent (R181, R183). -/

namespace Sys2Proof.Safety

open Machine

/-! ### The rates tried (R181) -/

/-- How many rates have been tried in a phase: those below the index, and its own once its open is made (R28, R181). -/
def ratesTried : Phase → Nat
  | .between r => r
  | .openFailed r | .ready r _ | .sent r | .settled r | .answered r _ | .writeFailed r | .closing r => r + 1

/-- An open tries the next rate of the table, and no other event tries one. -/
theorem PhaseStep.openBauds {p : Params} {ph ph' : Phase} {e : Event} (h : PhaseStep p ph e ph') (es : List Event) :
    baudTable.take (ratesTried ph) ++ openBauds (e :: es) = baudTable.take (ratesTried ph') ++ openBauds es := by
  cases h with
  | opened r baud hb => simp [ratesTried, Safety.openBauds, List.take_add_one, hb]
  | openError r baud hb => simp [ratesTried, Safety.openBauds, List.take_add_one, hb]
  | _ => rfl

/-- The rates tried before a trace and those opened in it are those tried after it. -/
theorem runPhases_openBauds {p : Params} {ph q : Phase} {es : List Event} (h : runPhases p ph es = some q) :
    baudTable.take (ratesTried ph) ++ openBauds es = baudTable.take (ratesTried q) := by
  induction es generalizing ph with
  | nil => cases h; exact List.append_nil _
  | cons e es ih =>
    obtain ⟨ph', hstep, hrest⟩ := runPhases_cons h
    rw [hstep.openBauds, ih hrest]

/-! ### The frames sent (R183) -/

/-- In a phase before a command, the command is start-scan or continue-scan. -/
def SendsStartOrContinue : Phase → Prop
  | .ready _ sub => sub = subStart ∨ sub = subContinue
  | _ => True

theorem PhaseStep.sendsStartOrContinue {p : Params} {ph ph' : Phase} {e : Event} (h : PhaseStep p ph e ph') :
    SendsStartOrContinue ph' := by
  cases h <;> simp [SendsStartOrContinue]

/-- The frame an event sends is that of the phase's command. -/
theorem PhaseStep.frame_sent {p : Params} {ph ph' : Phase} {bytes : List Byte} {w : WriteResult}
    (h : PhaseStep p ph (.tx bytes w) ph') (hph : SendsStartOrContinue ph) :
    bytes = commandFrame subStart ∨ bytes = commandFrame subContinue := by
  cases h with
  | written r sub => exact hph.imp (congrArg commandFrame) (congrArg commandFrame)
  | writeError r sub => exact hph.imp (congrArg commandFrame) (congrArg commandFrame)

/-- Every frame of a trace is one of the two. -/
theorem runPhases_frames_sent {p : Params} {ph q : Phase} {es : List Event} (h : runPhases p ph es = some q)
    (hph : SendsStartOrContinue ph) {bytes : List Byte} {w : WriteResult} (hmem : .tx bytes w ∈ es) :
    bytes = commandFrame subStart ∨ bytes = commandFrame subContinue := by
  induction es generalizing ph with
  | nil => cases hmem
  | cons e es ih =>
    obtain ⟨ph', hstep, hrest⟩ := runPhases_cons h
    cases hmem with
    | head => exact hstep.frame_sent hph
    | tail _ hmem => exact ih hrest hstep.sendsStartOrContinue hmem

/-- The start-scan frame (R82). -/
theorem commandFrame_subStart : commandFrame subStart = [0xFD#8, 0x46#8, 0x01#8, 0x13#8, 0x90#8] := by decide +kernel

/-- The continue-scan frame (R82). -/
theorem commandFrame_subContinue : commandFrame subContinue = [0xFD#8, 0x46#8, 0x02#8, 0x53#8, 0x91#8] := by decide +kernel

end Sys2Proof.Safety

namespace Sys2Proof.Proofs

open Machine Safety

/-- Settles O51: from no rate tried to all eight, in the order of the table. -/
theorem sweepTriesEveryRateOnce : Obligations.SweepTriesEveryRateOnce := by
  intro s htrace ⟨hrate, hidle, _⟩
  have hend : phaseOf s = .between 8 := by rw [phaseOf, hidle, hrate]
  rw [TraceInv, hend] at htrace
  exact runPhases_openBauds htrace

/-- Settles O53: no phase of the grammar sends another command. -/
theorem onlyStartAndContinueAreSent : Obligations.OnlyStartAndContinueAreSent := by
  intro s htrace bytes w hmem
  rw [← commandFrame_subStart, ← commandFrame_subContinue]
  exact runPhases_frames_sent htrace trivial hmem

end Sys2Proof.Proofs
end

