-- ==== Sys2Proof/Proofs/Transitions.lean ====
section
/-! PROOFS. The transitions one by one: what each answers under its guard, for every answer of the environment, and where it stops
(R186 to R199). -/

namespace Sys2Proof.Machine

open Safety

/-! ### The two command rows (R183) -/

theorem exec_startScan (s : State) : exec .startScan s = startTransition s := rfl
theorem exec_continueScan (s : State) : exec .continueScan s = continueTransition s := rfl

/-- In `Continuing` the row is the step (R94, R192). -/
theorem step_eq_exec_continueScan {s : State} (hs : s.session = .continuing) : step s = exec .continueScan s := by
  rw [step, transition, hs]

/-! ### The guards (log entry 8) -/

theorem openOp_held {s : State} (hp : s.portOpen = true) : openOp s = .fault .portAlreadyOpen := if_pos hp

theorem startTransition_stops {s : State} (h : s.session ≠ .idle ∨ s.rateIdx.val = 8) :
    startTransition s = .fault .transitionNotEnabled := by
  refine if_neg ?_
  rintro ⟨hs, hr⟩
  have hr : s.rateIdx.val < 8 := hr
  rcases h with hne | height
  · exact hne hs
  · omega

theorem continueTransition_stops {s : State} (h : s.session ≠ .continuing) :
    continueTransition s = .fault .transitionNotEnabled := if_neg h

/-! ### What an open and a failed write leave -/

theorem openedAt_events (baud : Nat) (s : State) :
    (openedAt baud s).events = s.events ++ [.opening s.params.portId baud s.params.readTimeout .opened] := rfl

/-- The write's answer does not depend on what the open does to the registers (R17, D20). -/
theorem drawWrite_openedAt (baud : Nat) (s : State) : (drawWrite (openedAt baud s)).1 = (drawWrite (drawOpen s).2).1 := by
  obtain ⟨h, -, -⟩ := drawWrite_congr (s := openedAt baud s) (t := (drawOpen s).2) rfl rfl
  exact h

/-- A skipped rate leaves its two events and the spent answer, and nothing else (R187). -/
theorem skippedAt_eq (baud : Nat) (s : State) :
    skippedAt baud s = { (drawOpen s).2 with
      session := .ended, result := .openError
      events := s.events ++
        [.opening s.params.portId baud s.params.readTimeout .openError, .diag .transportOpenError (.rate baud)] } := by
  rw [drawOpen_state]; rfl

/-- A failed write at any rate index: the diagnostic carries the rate read (R188, R225). -/
theorem exchange_cutShort_rate {s : State} {sub : Byte} (hp : s.portOpen = true) (hw : (drawWrite s).1 = .writeError)
    (f : State → Answer) :
    (andThen (exchangeOp sub s) fun x => if x.result = .transportWriteError then writeFailed x else f x) =
      .next { cutShortAt (drawBaud (commanded sub s)).1 sub s with freeCount := (drawBaud (commanded sub s)).2.freeCount } := by
  by_cases hr : s.rateIdx.val = 8
  · rw [exchange_cutShort_off hp hr hw, drawBaud_of_eight (s := commanded sub s) hr]
  · obtain ⟨baud, hb, -⟩ := baudOf_of_lt (i := s.rateIdx) (by omega)
    rw [exchange_cutShort hp hb hw, drawBaud_of_some (s := commanded sub s) hb]
    rfl

/-! ### What the reaction leaves -/

/-- `DeviceFound` is the one kind of its class (R171). -/
theorem classOf_eq_found_iff {k : Kind} : classOf k = .found ↔ k = .deviceFound := by cases k <;> simp [classOf]

theorem ne_deviceFound_of_classOf {k : Kind} (h : classOf k ≠ .found) : k ≠ .deviceFound := fun hk => h (classOf_eq_found_iff.mpr hk)

/-- The reaction answers a next state unless a device's fields are missing (R189 to R195, R222). -/
theorem actOnKind_answers {s : State} (h : s.kind = .deviceFound → s.serial.isSome = true ∧ s.busAddr.isSome = true) :
    ∃ t, actOnKind s = .next t := by
  cases hc : classOf s.kind with
  | terminal => exact ⟨_, actOnKind_terminal hc⟩
  | absorbed k => exact ⟨_, actOnKind_absorbed hc⟩
  | found =>
    have hk : s.kind = .deviceFound := classOf_eq_found_iff.mp hc
    obtain ⟨hserial, hbusAddr⟩ := h hk
    obtain ⟨n, hn⟩ := Option.isSome_iff_exists.mp hserial
    obtain ⟨a, ha⟩ := Option.isSome_iff_exists.mp hbusAddr
    exact ⟨_, actOnKind_found hk hn ha⟩

/-- The events of the reaction, by the kind: the report, the diagnostic or none (R189 to R195). -/
def reactionEvents (s : State) : List Event :=
  match classOf s.kind with
  | .terminal => []
  | .found => [.report (treeSerial s.rxRaw) (treeBusAddr s.rxRaw)]
  | .absorbed k => [.diag k (.bytes s.rxRaw)]

/-- After the reaction to an exchange: the session ended or continuing, a device with the reporter, and everything else the next
exchange meets as it was (R189 to R195). -/
structure Reacted (s t : State) : Prop where
  session : t.session = if classOf s.kind = .terminal then .ended else .continuing
  reporter : t.reporter =
    if s.kind = .deviceFound then s.reporter.accept (treeSerial s.rxRaw) (treeBusAddr s.rxRaw) else s.reporter
  events : t.events = s.events ++ reactionEvents s
  kind : t.kind = s.kind
  rxRaw : t.rxRaw = s.rxRaw
  rateIdx : t.rateIdx = s.rateIdx
  portOpen : t.portOpen = s.portOpen
  params : t.params = s.params
  answers : t.answers = s.answers

/-- The reaction to the kind of a receive always answers, and does what the kind asks. -/
theorem actOnKind_reacted {s : State} (hk : KindOfReceive s) : ∃ t, actOnKind s = .next t ∧ Reacted s t := by
  obtain ⟨t, ht⟩ := actOnKind_answers (s := s) fun h => by simp [hk.device h]
  refine ⟨t, ht, ?_⟩
  obtain ⟨hc, rfl⟩ | ⟨n, a, hfound, hn, ha, rfl⟩ | ⟨k, hc, rfl⟩ := actOnKind_cases ht
  · have hne : s.kind ≠ .deviceFound := ne_deviceFound_of_classOf (by simp [hc])
    constructor <;> simp [reactionEvents, hc, hne]
  · obtain ⟨hserial, hbusAddr⟩ := hk.device hfound
    cases hn.symm.trans hserial
    cases ha.symm.trans hbusAddr
    constructor <;> simp [reactionEvents, hfound, classOf]
  · have hne : s.kind ≠ .deviceFound := ne_deviceFound_of_classOf (by simp [hc])
    constructor <;> simp [reactionEvents, hc, hne]

/-- A whole exchange in `Continuing` and the reaction to it (R192 to R195). -/
theorem continue_exchanged {s : State} (hs : s.session = .continuing) (hp : s.portOpen = true) (hw : (drawWrite s).1 = .written) :
    ∃ u t, Exchanged subContinue s u ∧ exec .continueScan s = .next t ∧ Reacted u t := by
  obtain ⟨u, hu, -, hanswer⟩ := exchange_parsed (sub := subContinue) hp hw actOnKind
  have hx := exchanged_of_parse hw hu
  obtain ⟨t, ht, hreact⟩ := actOnKind_reacted (kindOfReceive_of_exchanged hx)
  exact ⟨u, t, hx, by rw [← step_eq_exec_continueScan hs, step_continuing hs, hanswer, ht], hreact⟩

end Sys2Proof.Machine

namespace Sys2Proof.Proofs

open Machine Safety

/-- Settles O37, one course of answers at a time. -/
theorem startScanOpensAndExchanges : Obligations.StartScanOpensAndExchanges := by
  intro s baud hs hbaud hp
  have hb : baudOf s.rateIdx = some baud := hbaud
  have hr := lt_eight_of_baudOf hb
  rw [exec_startScan]
  cases hd : (drawOpen s).1 with
  | openError =>
    exact ⟨_, startTransition_openError hs hp hb hr hd, rfl, rfl, rfl, fun _ => skippedAt_eq baud s, nofun, nofun⟩
  | opened =>
    rw [startTransition_opened hs hp hb hr hd, ← drawWrite_openedAt baud]
    cases hw : (drawWrite (openedAt baud s)).1 with
    | writeError =>
      refine ⟨_, exchange_cutShort (s := openedAt baud s) rfl hb hw _, by simp, by simp, by simp, nofun, fun _ _ => ?_, nofun⟩
      simp [cutShortAt_events hw, openedAt_events]
    | written =>
      obtain ⟨u, hu, -, hanswer⟩ := exchange_parsed (s := openedAt baud s) (sub := subStart) rfl hw fun x => .next (setSession .started x)
      have hx := exchanged_of_parse hw hu
      refine ⟨_, hanswer, hx.rateIdx, hx.params, hx.reporter, nofun, nofun, fun _ _ => ⟨rfl, hx.portOpen, hx.kind, ?_⟩⟩
      simp [hx.events, openedAt_events]

/-- Settles O38, for either answer of the write. -/
theorem continueScanExchangesAndReacts : Obligations.ContinueScanExchangesAndReacts := by
  intro s hs hp
  refine ⟨(drawBaud (commanded subContinue s)).1, ?_⟩
  have hmem := drawBaud_mem (commanded subContinue s)
  have htable : ∀ b, baudTable[s.rateIdx.val]? = some b → (drawBaud (commanded subContinue s)).1 = b :=
    fun b hb => drawBaud_eq (s := commanded subContinue s) hb
  cases hw : (drawWrite s).1 with
  | writeError =>
    have ht := exchange_cutShort_rate (sub := subContinue) hp hw actOnKind
    rw [← step_continuing hs, step_eq_exec_continueScan hs] at ht
    exact ⟨_, ht, hmem, htable, by simp, by simp, by simpa using hp, fun _ => by simp [cutShortAt_events hw], nofun⟩
  | written =>
    obtain ⟨u, t, hx, ht, h⟩ := continue_exchanged hs hp hw
    refine ⟨t, ht, hmem, htable, h.rateIdx.trans hx.rateIdx, h.params.trans hx.params, h.portOpen.trans (hx.portOpen.trans hp),
      nofun, fun _ => ?_⟩
    rw [h.kind, h.rxRaw, h.events, hx.events, ← hx.reporter]
    exact ⟨hx.kind, h.session, h.reporter, rfl⟩

/-- Settles O41: the step in `Started` is the reaction to the kind. -/
theorem startedReactsToKind : Obligations.StartedReactsToKind := by
  intro s hs
  rw [step_started hs]
  have habsorbed {k : DiagKind} (h : classOf s.kind = .absorbed k) :
      actOnKind s = .next { s with session := .continuing, events := s.events ++ [.diag k (.bytes s.rxRaw)] } := actOnKind_absorbed h
  refine ⟨fun hk => actOnKind_terminal ?_, fun n a hk hn ha => actOnKind_found hk hn ha, ?_⟩
  · rcases hk with hk | hk <;> rw [hk] <;> rfl
  · refine ⟨?_, ?_, ?_, ?_⟩ <;> exact fun hk => habsorbed (by rw [hk]; rfl)

/-- Settles O42, with a handle and without. -/
theorem endedClosesAndAdvances : Obligations.EndedClosesAndAdvances := by
  intro s hs hr
  refine ⟨_, step_ended hs, ?_⟩
  cases hp : s.portOpen with
  | true => exact ⟨nextRate_of_lt hr, rfl⟩
  | false => exact ⟨nextRate_of_lt hr, by simp [advanceRate, setSession, hp]⟩

/-- Settles O43: outside the end of the sweep the invariants meet the guard of the transition, and with it the transition completes. -/
theorem onlySweepDoneHasNoStep : Obligations.OnlySweepDoneHasNoStep := by
  intro s ⟨hidle, hport, _⟩ hdata
  refine ⟨fun ⟨hr, hs, _⟩ => step_swept hs hr, fun hnot => ?_⟩
  cases hs : s.session with
  | idle =>
    have hr : s.rateIdx.val < 8 := by
      have hne : s.rateIdx.val ≠ 8 := fun h => hnot ⟨h, hs, hidle hs⟩
      omega
    obtain ⟨baud, -, hbaud⟩ := baudOf_of_lt hr
    obtain ⟨t, ht, -⟩ := startScanOpensAndExchanges s baud hs hbaud (hidle hs)
    exact ⟨t, (step_idle hs hr).trans ht⟩
  | started =>
    obtain ⟨-, hdevice⟩ := (dataInv_iff s).mp hdata
    rw [step_started hs]
    exact actOnKind_answers fun hk => ⟨hdevice.serial.mpr hk, hdevice.busAddr.mpr hk⟩
  | continuing =>
    obtain ⟨-, t, ht, -⟩ := continueScanExchangesAndReacts s hs (hport (.inr hs))
    exact ⟨t, (step_eq_exec_continueScan hs).trans ht⟩
  | ended => exact ⟨_, step_ended hs⟩

/-- Settles O31, guard by guard. -/
theorem guardsStopOperations : Obligations.GuardsStopOperations := by
  intro s
  refine ⟨openOp_held, fun hp => ?_, startTransition_stops, continueTransition_stops⟩
  have hclosed (k : Answer) : requirePort s k = .fault .portNotOpen := requirePort_of_closed hp k
  exact ⟨hclosed _, hclosed _, hclosed _, hclosed _, fun _ => hclosed _, fun _ _ => hclosed _, fun _ => hclosed _⟩

end Sys2Proof.Proofs
end

