-- ==== Sys2Proof/Proofs/UnboundedSession.lean ====
section
/-! PROOFS. A session goes on for as long as the environment ends it by no answer (R203, R275). -/

namespace Sys2Proof.Machine

open Safety

/-- One turn of the continue loop on pending answers: the two answers are spent, and the loop is where it was (R192 to R194). -/
theorem step_continuing_again {s : State} {raw : List Byte} {rest : List (List Byte)} {ws : List WriteResult}
    (hs : s.session = .continuing) (hp : s.portOpen = true) (hw : s.answers.writes = .written :: ws)
    (hr : s.answers.receives = raw :: rest) (hl : raw.length ≤ s.params.rxMax) (hc : classOf (parseTree raw) ≠ .terminal) :
    ∃ t, step s = .next t ∧ t.session = .continuing ∧ t.rateIdx = s.rateIdx ∧ t.portOpen = true ∧ t.params = s.params ∧
      t.answers.writes = ws ∧ t.answers.receives = rest := by
  have hwritten : drawWrite s = (.written, { s with answers := { s.answers with writes := ws } }) := drawWrite_pending hw
  obtain ⟨u, t, hx, ht, h⟩ := continue_exchanged hs hp (by rw [hwritten])
  have hreceived := drawReceive_pending (s := commanded subContinue s) (raw := raw) (rest := rest) (by simp [commanded, hwritten, hr])
  have hraw : u.rxRaw = raw := by rw [hx.rxRaw, hreceived, takeAtMost_of_le hl]
  have hanswers : t.answers = { s.answers with writes := ws, receives := rest } := by
    rw [h.answers, hx.answers, hreceived]
    simp [commanded, hwritten]
  refine ⟨t, (step_eq_exec_continueScan hs).trans ht, ?_, h.rateIdx.trans hx.rateIdx, h.portOpen.trans (hx.portOpen.trans hp),
    h.params.trans hx.params, by rw [hanswers], by rw [hanswers]⟩
  rw [h.session, hx.kind, hraw, if_neg hc]

/-- A run goes on from where its first step leads. -/
theorem run_of_step (M : Host.Core) {n : Nat} {s t : M.State} (h : M.step s = .next t) : M.run (n + 1) s = M.run n t := by
  rw [Host.Core.run, h]

end Sys2Proof.Machine

namespace Sys2Proof.Proofs

open Machine Safety

/-- Settles O55, by induction on the number of pending exchanges. -/
theorem sessionIsUnbounded : Obligations.SessionIsUnbounded := by
  intro n
  induction n with
  | zero => exact fun s _ _ _ hs hp _ _ _ _ => ⟨s, rfl, hs, rfl, hp⟩
  | succ n ih =>
    intro s raws rest ws hs hp hn hraws hw hr
    match raws, hn with
    | raw :: raws, hn =>
      obtain ⟨⟨hl, hc⟩, hraws⟩ := List.forall_mem_cons.mp hraws
      obtain ⟨t, ht, hs', hrate, hp', hparams, hw', hr'⟩ := step_continuing_again hs hp hw hr hl hc
      rw [← hparams] at hraws
      obtain ⟨u, hu, hsu, hrateu, hpu⟩ := ih t raws rest ws hs' hp' (Nat.succ.inj hn) hraws hw' hr'
      exact ⟨u, (run_of_step core ht).trans hu, hsu, hrateu.trans hrate, hpu⟩

/-- A session on a line on which `n` lone fill bytes are still to come, each as the answer to a good write. -/
def noisyLine (n : Nat) : State :=
  { State.reset with
    session := .continuing, portOpen := true
    answers := { opens := [], writes := List.replicate n .written, receives := List.replicate n [idleFillByte] } }

/-- `sessionIsUnbounded` applied for every `n`: noise keeps a session going. -/
theorem noisyLine_goesOn (n : Nat) :
    ∃ t, core.run n (noisyLine n) = .next t ∧ t.session = .continuing ∧ t.rateIdx = (noisyLine n).rateIdx ∧ t.portOpen = true := by
  have hmax : [idleFillByte].length ≤ (noisyLine n).params.rxMax := Nat.le_add_left 1 (Config.rxSlack + 9)
  have hkind : classOf (parseTree [idleFillByte]) ≠ .terminal := by decide
  refine sessionIsUnbounded n _ (List.replicate n [idleFillByte]) [] [] rfl rfl List.length_replicate ?_
    (List.append_nil _).symm (List.append_nil _).symm
  intro raw hmem
  rw [List.eq_of_mem_replicate hmem]
  exact ⟨hmax, hkind⟩

end Sys2Proof.Proofs
end

