-- ==== Sys2Proof/Proofs/Interfaces.lean ====
section
/-! PROOFS. The statements of spec/44_interfaces.md: the transport, report and diagnostic interfaces as the core sees them
(R210 to R225). -/

namespace Sys2Proof.Machine

/-! What each interface row runs (R210, R220). -/

theorem exec_xportOpen (s : State) : exec .xportOpen s = openOp s := rfl
theorem exec_xportWrite (s : State) : exec .xportWrite s = writeOp s := rfl
theorem exec_xportSettle (s : State) : exec .xportSettle s = .next (settleOp s) := rfl
theorem exec_xportRecv (s : State) : exec .xportRecv s = recvOp s := rfl
theorem exec_xportClose (s : State) : exec .xportClose s = closeOp s := rfl
theorem exec_reportDevice (s : State) : exec .reportDevice s = reportOp s := rfl
theorem exec_diagEmit (k : DiagKind) (s : State) : exec (.diagEmit k) s = diagOp k s := rfl

/-! What a draw takes: the pending answer where there is one, else one more free value (R17, log entry 3). -/

/-- A pending open is the one taken (log entry 3). -/
theorem drawOpen_pending {s : State} {r : OpenResult} {rest : List OpenResult} (h : s.answers.opens = r :: rest) :
    drawOpen s = (r, { s with answers := { s.answers with opens := rest } }) := by
  simp [drawOpen, h]

/-- Without a pending open one free value is counted (log entry 3). -/
theorem drawOpen_free {s : State} (h : s.answers.opens = []) : (drawOpen s).2 = { s with freeCount := s.freeCount + 1 } := by
  simp [drawOpen, h]

/-- Without a pending write one free value is counted (log entry 3). -/
theorem drawWrite_free {s : State} (h : s.answers.writes = []) : (drawWrite s).2 = { s with freeCount := s.freeCount + 1 } := by
  simp [drawWrite, h]

/-- Without a pending receive one free value is counted (log entry 3). -/
theorem drawReceive_free {s : State} (h : s.answers.receives = []) :
    (drawReceive s).2 = { s with freeCount := s.freeCount + 1 } := by
  simp [drawReceive, h]

/-- Reading the rate takes no pending answer (R28). -/
theorem drawBaud_answers (s : State) : (drawBaud s).2.answers = s.answers := by rw [drawBaud_state]

/-- The two draws of `XPORT.OPEN` change the environment's answers and the count of free values, nothing else (R36, R211). -/
theorem drawOpen_drawBaud_state (s : State) :
    (drawOpen (drawBaud s).2).2 = { s with
      answers := (drawOpen (drawBaud s).2).2.answers, freeCount := (drawOpen (drawBaud s).2).2.freeCount } := by
  have h := drawOpen_state (drawBaud s).2
  rw [drawBaud_state s] at h ⊢
  exact h

/-! The report and the diagnostics. -/

/-- `REPORT.DEVICE` has no device to hand over unless the kind is `DeviceFound` and both fields hold a value (R30, log entry 8). -/
theorem reportOp_stops {s : State} (h : s.kind ≠ .deviceFound ∨ s.serial = none ∨ s.busAddr = none) :
    reportOp s = .fault .noDevice := by
  rcases h with hkind | hserial | hbusAddr
  · simp [reportOp, hkind]
  · simp [reportOp, hserial]
  · cases hserial : s.serial <;> simp [reportOp, hserial, hbusAddr]

/-- A decoder kind is the diagnostic of an absorbed kind and carries the bytes received (R171, R225). -/
theorem diagOp_decoder {k : DiagKind}
    (h : k = .malformedFrame ∨ k = .checksumMismatch ∨ k = .unrecognizedFrame ∨ k = .malformedDeviceRecord) (s : State) :
    diagOp k s = .next (emit (.diag k (.bytes s.rxRaw)) s) := by
  rcases h with rfl | rfl | rfl | rfl
  · exact diagOp_absorbed (c := .malformedFrame) rfl
  · exact diagOp_absorbed (c := .checksumMismatch) rfl
  · exact diagOp_absorbed (c := .unrecognizedFrame) rfl
  · exact diagOp_absorbed (c := .malformedDeviceRecord) rfl

end Sys2Proof.Machine

namespace Sys2Proof.Proofs

open Machine

/-- Settles O26: of the two draws the first gives the rate and the second the answer, taken or free. -/
theorem openAsksAtTableRate : Obligations.OpenAsksAtTableRate := by
  intro s hp
  have hcount := drawBaud_freeCount s
  refine ⟨(drawBaud s).1, (drawOpen (drawBaud s).2).1, _, (exec_xportOpen s).trans (openOp_eq hp), drawBaud_mem s,
    fun _ hb => drawBaud_eq hb, ?_, ?_, ?_⟩
  · rw [drawOpen_drawBaud_state]
  · intro r rest hr
    rw [← drawBaud_answers] at hr
    simp [drawOpen_pending hr, drawBaud_answers, hcount]
  · intro hnone
    rw [← drawBaud_answers] at hnone
    simp [drawOpen_free hnone, drawBaud_answers, hcount]

/-- Settles O27: the write is one event with `tx_buf`, and its draw is taken or free. -/
theorem writeHandsOverFiveBytes : Obligations.WriteHandsOverFiveBytes := by
  intro s hp
  refine ⟨(drawWrite s).1, _, (exec_xportWrite s).trans (writeOp_open hp), ?_, ?_, ?_⟩
  · rw [drawWrite_state]; rfl
  · intro w rest hw
    simp [drawWrite_pending hw]
  · intro hnone
    simp [drawWrite_free hnone]

/-- Settles O29: what is delivered is the draw cut to `RX_MAX`. -/
theorem receiveIsBoundedByRxMax : Obligations.ReceiveIsBoundedByRxMax := by
  intro s hp
  have hparams : (drawReceive s).2.params = s.params := by rw [drawReceive_state]
  refine ⟨_, (exec_xportRecv s).trans (recvOp_open hp), ?_, ?_, ?_, ?_⟩
  · simpa [hparams] using takeAtMost_length_le (drawReceive s).1 s.params.rxMax
  · rw [drawReceive_state]; rfl
  · intro raw rest hr
    simp [drawReceive_pending hr, takeAtMost_eq_take]
  · intro hnone
    simp [drawReceive_free hnone]

/-- Settles O28: the wait is one event. -/
theorem settleChangesNoRegister : Obligations.SettleChangesNoRegister := exec_xportSettle

/-- Settles O30: with a handle the guard of `XPORT.CLOSE` is met. -/
theorem closeReleasesHandle : Obligations.CloseReleasesHandle :=
  fun s hp => (exec_xportClose s).trans (closeOp_open hp)

/-- Settles O32: a device is handed over, and without one `REPORT.DEVICE` stops. -/
theorem reportHandsDeviceOver : Obligations.ReportHandsDeviceOver :=
  ⟨fun s _ _ hk hn ha => (exec_reportDevice s).trans (reportOp_found hk hn ha),
    fun s h => (exec_reportDevice s).trans (reportOp_stops h)⟩

/-- Settles O33: a decoder kind carries `rx_raw`; a transport kind the rate read, in the table below 8 and drawn at 8. -/
theorem diagCarriesBytesOrRate : Obligations.DiagCarriesBytesOrRate := by
  intro k s
  simp only [exec_diagEmit]
  refine ⟨fun hk => diagOp_decoder hk s, fun hk => ⟨fun baud hb => diagOp_transport hk hb rfl, fun height => ?_⟩⟩
  refine ⟨(drawBaud s).1, drawBaud_mem s, ?_⟩
  rw [diagOp_rate hk, drawBaud_of_eight height]
  rfl

end Sys2Proof.Proofs
end

