-- ==== Sys2Proof/Proofs/ResetAndHazards.lean ====
section
/-! PROOFS. The statements of spec/70_reset_and_hazards.md: the host's reset and the first step after it (R260 to R262), and a fill byte
inside a genuine frame (R271). -/

namespace Sys2Proof.Machine

open Safety

/-! ### Reset and the start of a run -/

/-- While a transport is open the host's reset has no step (R262, D26). -/
theorem hostReset_of_open {s : State} (hp : s.portOpen = true) : hostReset s = .refused .resetWhilePortOpen := if_pos hp

/-- Between sessions the host's reset restarts the machine and keeps what is no state of the core (R39, R260; log entry 15). -/
theorem hostReset_of_closed {s : State} (hp : s.portOpen = false) :
    hostReset s = .next { State.reset with params := s.params, answers := s.answers, freeCount := s.freeCount } :=
  if_neg (ne_true_of_eq_false hp)

/-- In `Idle` with a rate left the row is the step (R94, R186). -/
theorem step_eq_exec_startScan {s : State} (hs : s.session = .idle) (hr : s.rateIdx.val < 8) : step s = exec .startScan s :=
  step_idle hs hr

/-- Whatever the environment answers, a session's first event is its open (R186 to R188). -/
theorem exec_startScan_opens_first {s : State} {baud : Nat} (hs : s.session = .idle) (hb : baudTable[s.rateIdx.val]? = some baud)
    (hp : s.portOpen = false) :
    ∃ t r later, exec .startScan s = .next t ∧
      t.events = s.events ++ .opening s.params.portId baud s.params.readTimeout r :: later := by
  obtain ⟨t, ht, -, -, -, hopenError, hwriteError, hwritten⟩ := Proofs.startScanOpensAndExchanges s baud hs hb hp
  cases hopen : (drawOpen s).1 with
  | openError => exact ⟨t, .openError, _, ht, by rw [hopenError hopen]⟩
  | opened =>
    cases hwrite : (drawWrite (drawOpen s).2).1 with
    | writeError =>
      obtain ⟨-, -, -, -, hevents⟩ := hwriteError hopen hwrite
      exact ⟨t, .opened, _, ht, hevents⟩
    | written =>
      obtain ⟨-, -, -, hevents⟩ := hwritten hopen hwrite
      exact ⟨t, .opened, _, ht, hevents⟩

/-! ### A fill byte inside a genuine frame -/

/-- Denoising shortens a sequence that holds a fill byte (R141). -/
theorem denoise_length_lt {bs : List Byte} (h : noFill bs = false) : (denoise bs).length < bs.length := by
  rw [denoise_eq_filter, List.length_filter_lt_length_iff_exists]
  simpa [noFill] using h

/-- A device frame is 10 bytes (R84). -/
theorem deviceFrame_length (n : Word32) (a : Byte) : (deviceFrame n a).length = 10 := by simp [deviceFrame]

/-- The three header bytes are no fill bytes, so a device frame passes the header and type tests with any other byte deleted
(R141, R145, R146). -/
theorem headerKind_denoise_deviceFrame (n : Word32) (a : Byte) : headerKind (denoise (deviceFrame n a)) = none := by
  obtain ⟨rest, hrest⟩ : ∃ rest, denoise (deviceFrame n a) = header subResponse ++ rest := ⟨_, rfl⟩
  rw [hrest]
  rfl

/-- A frame with a device record's header and the wrong length fails the length test, the checksum test or the record's own length test
(R143, R144, R147). -/
theorem parseTree_of_wrong_record {raw : List Byte} (hk : headerKind (denoise raw) = none) (hl : (denoise raw).length ≠ 10)
    (hne : raw ≠ []) :
    parseTree raw = .malformedFrame ∨ parseTree raw = .checksumMismatch ∨ parseTree raw = .malformedDeviceRecord := by
  rw [parseTree_eq, if_neg hne, hk, Option.getD_none, if_neg hl]
  by_cases hshort : (denoise raw).length < 5
  · exact .inl (if_pos hshort)
  rw [if_neg hshort]
  by_cases hgood : goodChecksum (denoise raw) = true
  · exact .inr (.inr (if_pos hgood))
  · exact .inr (.inl (if_neg hgood))

end Sys2Proof.Machine

namespace Sys2Proof.Proofs

open Machine Safety

/-- Settles O23: the deleted fill byte leaves fewer than 10 bytes behind the header of a device record. -/
theorem fillByteHidesDevice : Obligations.FillByteHidesDevice := by
  intro n a s hp hmax hwell
  have hfill : noFill (deviceFrame n a) = false := hwell
  have hlen := deviceFrame_length n a
  have hraw : (deliver (deviceFrame n a) s).rxRaw = deviceFrame n a := takeAtMost_of_le (hlen.trans_le hmax)
  have hshortened : (denoise (deviceFrame n a)).length ≠ 10 := hlen ▸ (denoise_length_lt hfill).ne
  obtain ⟨t, ht, -⟩ := parseOp_next (deliver (deviceFrame n a) s)
  have hkind : t.kind = .malformedFrame ∨ t.kind = .checksumMismatch ∨ t.kind = .malformedDeviceRecord := by
    rw [parseOp_kind ht, hraw]
    exact parseTree_of_wrong_record (headerKind_denoise_deviceFrame n a) hshortened (List.ne_nil_of_length_pos (by simp [hlen]))
  have hnone : t.kind ≠ .deviceFound := by rcases hkind with h | h | h <;> simp [h]
  obtain ⟨hserial, hbusAddr⟩ := parseOp_device_fields ht
  rw [if_neg hnone] at hserial hbusAddr
  exact ⟨t, (receiveAndParse_open hp _).trans ht, hserial, hbusAddr, hkind⟩

/-- Settles O57: reset leaves `Idle` at rate index 0 without a handle or an event, where a session's first event is its open. -/
theorem firstEventIsOpenAt115200 : Obligations.FirstEventIsOpenAt115200 := by
  have hstep : step State.reset = exec .startScan State.reset := step_eq_exec_startScan rfl (by decide)
  obtain ⟨t, r, later, ht, hevents⟩ := exec_startScan_opens_first (s := State.reset) (baud := 115200) rfl rfl rfl
  exact ⟨hstep, t, r, hstep.trans ht, congrArg List.head? hevents⟩

/-- Settles O58, by the two answers of the host's reset. -/
theorem hostResetRestartsOrIsRefused : Obligations.HostResetRestartsOrIsRefused :=
  fun _ => ⟨hostReset_of_open, fun hp => ⟨_, hostReset_of_closed hp, rfl, rfl, rfl, rfl, rfl, rfl, rfl, rfl, rfl⟩⟩

end Sys2Proof.Proofs
end
